-- ==== Sys2Proof/Word.lean ====
section
/-! DEFINITION. The widths the spec gives its fields (00_scope.md R7, 30_encoding.md R60): a 16-bit unsigned
scalar and the 40-bit request header. Sequences of bits (data blocks, codewords) are lists of Bool, element 0
first (R10, R15). -/

namespace Sys2Proof

/-- A 16-bit unsigned scalar field: len, sel, value (R7, R64). -/
abbrev Word := BitVec 16

/-- A request header, req_hdr[39:0] (R60). -/
abbrev Header := BitVec 40

end Sys2Proof
end

