-- ==== Sys2Proof/Syntax.lean ====
section
/-! DEFINITION. The requests the block performs, one constructor per row of spec/opcode_table.json
(30_encoding.md R62), each holding the header fields its operation reads (R63); and the lines of the spec's
assembler syntax (R68, R70). A header field an operation ignores is no part of the request it spells (R63, R65).
The operand bus is no part of the header: a meaning reads it from the state. -/

namespace Sys2Proof

/-- A request as its header spells it. -/
inductive Instr where
  /-- PBN d: parity bits needed for d data bits (40_bit_index_math.md R91). -/
  | pbn (len : Word)
  /-- MDB n: most data bits that fit in n (R94). -/
  | mdb (len : Word)
  /-- ISPAR p: is p a parity position (R97). -/
  | ispar (sel : Word)
  /-- COVER n, p: coverage set of parity position p in length n (41_coverage_map.md R113). -/
  | cover (len sel : Word)
  /-- ENCODE d: encode the data block on the operand bus (42_encoder.md R122). -/
  | encode (len : Word)
  /-- SYND n: syndrome sum of the codeword on the operand bus (43_decoder.md R132). -/
  | synd (len : Word)
  /-- LOCATE n: position the syndrome names (R137). -/
  | locate (len : Word)
  /-- CORRECT n: flip the bit the syndrome names (R142). -/
  | correct (len : Word)
  /-- EXTRACT n: the data bits as they stand (R147). -/
  | extract (len : Word)
  /-- DECODE n (ac = 1) and DECODE.RAW n (ac = 0): correct if ac, then extract (R152). -/
  | decode (len : Word) (ac : Bool)
  deriving DecidableEq, Repr

/-- The mnemonics whose assembler form takes a bit string (R68). -/
inductive BitsMnemonic where
  | encode | synd | locate | correct | extract | decode | decodeRaw
  deriving DecidableEq, Repr

/-- A line of the assembler syntax (R68), its numbers not yet checked. -/
inductive AsmLine where
  | pbn (d : Nat)
  | mdb (n : Nat)
  | ispar (p : Nat)
  | cover (n p : Nat)
  /-- A form with a bit string. The length operand is absent in the shorthand forms of R70. -/
  | withBits (m : BitsMnemonic) (len : Option Nat) (bits : List Char)
  deriving DecidableEq, Repr

end Sys2Proof
end

