-- ==== Sys2Proof/Decode.lean ====
section
/-! DEFINITION. From a 40-bit header to the request it spells, and back (30_encoding.md R60, R62, R65, R69).
Decoding is total: a header that spells no operation is rejected by name. -/

namespace Sys2Proof

/-- Why a header spells no operation (R65); either way its request completes with INVALID_OP (R171). -/
inductive Reject where
  /-- rsv is not 0b000; checked for every op value. -/
  | reservedBits
  /-- op is 0x0 or in 0xB to 0xF. -/
  | reservedOp
  deriving DecidableEq, Repr

/-- op, bits [3:0] (R60). -/
def opField (h : Header) : BitVec 4 := h.extractLsb' 0 4

/-- ac, bit [4] (R60). -/
def acField (h : Header) : Bool := h.getLsbD 4

/-- rsv, bits [7:5] (R60). -/
def rsvField (h : Header) : BitVec 3 := h.extractLsb' 5 3

/-- len, bits [23:8] (R60). -/
def lenField (h : Header) : Word := h.extractLsb' 8 16

/-- sel, bits [39:24] (R60). -/
def selField (h : Header) : Word := h.extractLsb' 24 16

/-- The operation an op value selects, with the fields it reads (R62, R63). -/
def selectOp (op : BitVec 4) (len sel : Word) (ac : Bool) : Except Reject Instr :=
  match op.toNat with
  | 1 => .ok (.pbn len)
  | 2 => .ok (.mdb len)
  | 3 => .ok (.ispar sel)
  | 4 => .ok (.cover len sel)
  | 5 => .ok (.encode len)
  | 6 => .ok (.synd len)
  | 7 => .ok (.locate len)
  | 8 => .ok (.correct len)
  | 9 => .ok (.extract len)
  | 10 => .ok (.decode len ac)
  | _ => .error .reservedOp

/-- The request a header spells, or why it spells none (R65). -/
def decodeHeader (h : Header) : Except Reject Instr :=
  if rsvField h ≠ 0#3 then .error .reservedBits
  else selectOp (opField h) (lenField h) (selField h) (acField h)

/-- The op value of a request (R62). -/
def opOf : Instr → BitVec 4
  | .pbn _ => 0x1
  | .mdb _ => 0x2
  | .ispar _ => 0x3
  | .cover _ _ => 0x4
  | .encode _ => 0x5
  | .synd _ => 0x6
  | .locate _ => 0x7
  | .correct _ => 0x8
  | .extract _ => 0x9
  | .decode _ _ => 0xA

/-- The len field an assembler writes: an operand a form does not list is 0 (R69). -/
def lenOf : Instr → Word
  | .pbn n | .mdb n | .encode n | .synd n | .locate n | .correct n | .extract n => n
  | .cover n _ | .decode n _ => n
  | .ispar _ => 0

/-- The sel field an assembler writes: an operand a form does not list is 0 (R69). -/
def selOf : Instr → Word
  | .ispar p | .cover _ p => p
  | .pbn _ | .mdb _ | .encode _ | .synd _ | .locate _ | .correct _ | .extract _ | .decode _ _ => 0

/-- The ac bit an assembler writes: 1 for every mnemonic but DECODE.RAW (R69). -/
def acOf : Instr → Bool
  | .decode _ ac => ac
  | .pbn _ | .mdb _ | .ispar _ | .cover _ _ | .encode _ | .synd _ | .locate _ | .correct _ | .extract _ => true

/-- A header from its fields, as R69 writes it: (sel << 24) | (len << 8) | (ac << 4) | op, rsv = 0b000. -/
def packHeader (sel len : Word) (ac : Bool) (op : BitVec 4) : Header :=
  (sel.setWidth 40 <<< 24) ||| (len.setWidth 40 <<< 8) ||| ((BitVec.ofBool ac).setWidth 40 <<< 4) ||| op.setWidth 40

/-- The header an assembler writes for a request (R69). -/
def encodeHeader (i : Instr) : Header := packHeader (selOf i) (lenOf i) (acOf i) (opOf i)

/-- The header that a word of `nbits` bits stands for, numbered as spec/opcode_table.json numbers it: bit 0 of the word
is bit 0 of the header, and bits from `nbits` on are 0. The header is one 40-bit word: there is no order of bytes. -/
def tableHeader (nbits w : Nat) : Header := BitVec.ofNat 40 (w % 2 ^ nbits)

/-- The request the decoder reads from a table word; none where it rejects. -/
def decodeTableWord (nbits w : Nat) : Option Instr :=
  match decodeHeader (tableHeader nbits w) with
  | .ok i => some i
  | .error _ => none

end Sys2Proof
end

