-- ==== Sys2Proof/Config.lean ====
section
/-! DEFINITION. What an implementation fixes (D_MAX, LATENCY) and what the spec leaves open (the power-on values).
The open values are constants without a body: no proof can see one. -/

namespace Sys2Proof

/-- The build parameter of an instance: D_MAX with its bounds, 1 <= D_MAX <= 65519 (00_scope.md R6).
K_MAX and N_MAX are derived from it in Machine/BitIndexMath.lean. -/
structure Cfg where
  dMax   : Nat
  one_le : 1 ≤ dMax
  le_max : dMax ≤ 65519
  deriving DecidableEq, Repr

/-- The spec's reference configuration, D_MAX = 256 (R6). -/
def Config.reference : Cfg := ⟨256, by decide, by decide⟩

/-- LATENCY: the cycles from acceptance to completion, a finite natural that may depend on the operation (the op
field) and the length (the len field) of the request (R8, 70_reset_and_hazards.md R210, 93 I11). Log 4. -/
opaque Config.latency : BitVec 4 → Word → Nat

/-! Power-on values: before the first reset every response register, `done` and `req_ready` hold an unspecified
value, each drawn on its own (R201, 93 I10). `req_ready` follows the request in progress, so that one is open too.
Each value is a function, without a body, of the draw: a number that names one power-up of one instance. Nothing
relates the values of two draws, so two instances, or two power-ups of one, need not power on alike. Log 7. -/

opaque Config.powerOnValid : Nat → Bool
opaque Config.powerOnStatus : Nat → BitVec 3
opaque Config.powerOnFlipped : Nat → Bool
opaque Config.powerOnLen : Nat → Word
opaque Config.powerOnValue : Nat → Word
opaque Config.powerOnBits : Nat → Nat
opaque Config.powerOnDone : Nat → Bool
opaque Config.powerOnBusy : Nat → Bool
opaque Config.powerOnHdr : Nat → Header
opaque Config.powerOnOperand : Nat → Nat
opaque Config.powerOnLeft : Nat → Nat

end Sys2Proof
end

