-- ==== Sys2Proof/Machine/BitIndexMath.lean ====
section
/-! DEFINITION. BitIndexMath: the parity-count arithmetic every other function rests on (40_bit_index_math.md R90, R93,
R96), on naturals (R12), and the derived build parameters K_MAX and N_MAX (00_scope.md R6). -/

namespace Sys2Proof.Machine

/-- isPow2(x): x = 2^j for some natural j (R12). -/
def isPow2 (x : Nat) : Bool := x == 2 ^ Nat.log2 x

/-- popcount(x): the number of 1 bits of x (R12). -/
def popcount (x : Nat) : Nat := ((List.range (Nat.log2 x + 1)).filter x.testBit).length

/-- The number of binary digits of n; 0 for n = 0. It is the number of parity positions below n (R92). -/
def bitLength (n : Nat) : Nat := if n = 0 then 0 else Nat.log2 n + 1

/-- The search of R90 from k on, with fuel: the first k with 2^k - k - 1 >= d. -/
def pbnFrom : Nat → Nat → Nat → Nat
  | 0, k, _ => k
  | fuel + 1, k, d => if 2 ^ k - k - 1 < d then pbnFrom fuel (k + 1) d else k

/-- pbn(d): the smallest k with 2^k - k - 1 >= d (R90). k = d + 1 always meets the condition, so the fuel suffices. -/
def pbn (d : Nat) : Nat := pbnFrom (d + 1) 0 d

/-- isPar(p): p + 1 is a power of two, on naturals, without wrap (R96). -/
def isPar (p : Nat) : Bool := isPow2 (p + 1)

/-- The parity positions of a codeword of length n, ascending (R92). -/
def parityPositions (n : Nat) : List Nat := (List.range n).filter isPar

/-- The data positions of a codeword of length n, ascending: the positions that are no parity positions. -/
def dataPositions (n : Nat) : List Nat := (List.range n).filter fun i => !isPar i

/-- mdb(n), in the closed form R93 gives: n - (floor(log2 n) + 1) for n >= 1, and mdb(0) = 0 (log 18). -/
def mdb (n : Nat) : Nat := n - bitLength n

/-- The incrementing search of R93 from d on, with fuel. -/
def mdbFrom : Nat → Nat → Nat → Nat
  | 0, d, _ => d
  | fuel + 1, d, n => if (d + 1) + pbn (d + 1) ≤ n then mdbFrom fuel (d + 1) n else d

/-- mdb(n) as the pseudocode of R93 searches it; the statements say that `mdb` is this. -/
def mdbSearch (n : Nat) : Nat := mdbFrom (n + 1) 0 n

end Sys2Proof.Machine

namespace Sys2Proof

/-- K_MAX = pbn(D_MAX) (R6). -/
def Cfg.kMax (c : Cfg) : Nat := Machine.pbn c.dMax

/-- N_MAX = D_MAX + K_MAX, the widest codeword and the width of the buses (R6, R7). -/
def Cfg.nMax (c : Cfg) : Nat := c.dMax + c.kMax

end Sys2Proof
end

