-- ==== Sys2Proof/Machine/Coverage.lean ====
section
/-! DEFINITION. The coverage map (41_coverage_map.md R110, R111): which positions a parity position checks. -/

namespace Sys2Proof.Machine

/-- cov(n, p), ascending, in the bit-test form of R111: the positions i < n whose 1-indexed value has the bit p + 1 set.
"A model may implement either form" (R111, log 18). -/
def cov (n p : Nat) : List Nat := (List.range n).filter fun i => (i + 1) &&& (p + 1) != 0

/-- One pass of the run procedure of R110 from run start s on, with fuel: p + 1 positions taken, p + 1 skipped, those at
or above n discarded. -/
def covRunsFrom : Nat → Nat → Nat → Nat → List Nat
  | 0, _, _, _ => []
  | fuel + 1, n, p, s =>
    if s < n then
      ((List.range (p + 1)).map (s + ·)).filter (· < n) ++ covRunsFrom fuel n p (s + 2 * (p + 1))
    else []

/-- cov(n, p) as the run procedure of R110 lists it; the statements say that `cov` is this for every parity position
below n. -/
def covRuns (n p : Nat) : List Nat := covRunsFrom n n p p

/-- The xor of the elements of w at the positions of a list; the empty xor is 0 (R12). -/
def xorAt (w : List Bool) (ps : List Nat) : Bool := ps.foldr (fun i b => xor (w.getD i false) b) false

/-- xor { w[i] : i in cov(n, p), i != p }, with n = |w|: the value parity position p ought to hold (R120, R130). -/
def expectedParity (w : List Bool) (p : Nat) : Bool := xorAt w ((cov w.length p).filter (· != p))

end Sys2Proof.Machine
end

