-- ==== Sys2Proof/Machine/Codec.lean ====
section
/-! DEFINITION. The functions of the encoder and the decoder on sequences of bits of any length: enc (42_encoder.md
R120), synd, corr, ext and dec (43_decoder.md R130, R140, R145, R150). The requests apply them to the operand bus. -/

namespace Sys2Proof.Machine

/-- The data bits in order at the non-parity positions of a list of positions, 0 at the parity positions (R120, the first
loop). -/
def placeData : List Nat → List Bool → List Bool
  | [], _ => []
  | i :: is, data =>
    if isPar i then false :: placeData is data
    else data.headD false :: placeData is data.tail

/-- Every parity position of w set to the value its group gives, in ascending order (R120, the second loop). -/
def setParities (w : List Bool) : List Bool :=
  (parityPositions w.length).foldl (fun w p => w.set p (expectedParity w p)) w

/-- enc(data) (R120). -/
def enc (data : List Bool) : List Bool :=
  setParities (placeData (List.range (data.length + pbn data.length)) data)

/-- synd(w) = S: the sum of the identifiers p + 1 of the parity groups that mismatch, ascending (R130). -/
def synd (w : List Bool) : Nat :=
  (parityPositions w.length).foldl
    (fun S p => if expectedParity w p != w.getD p false then S + (p + 1) else S) 0

/-- A copy of w with the bit at position i inverted. -/
def flipAt (w : List Bool) (i : Nat) : List Bool := w.set i (!w.getD i false)

/-- corr(w): the word and whether a bit was flipped; S = 0 and S > n flip nothing (R140). -/
def corr (w : List Bool) : List Bool × Bool :=
  let S := synd w
  if S = 0 then (w, false)
  else if S > w.length then (w, false)
  else (flipAt w (S - 1), true)

/-- ext(w): the values at the non-parity positions, ascending (R145). -/
def ext (w : List Bool) : List Bool := (dataPositions w.length).map fun i => w.getD i false

/-- dec(w, ac): data, S and whether a bit was flipped (R150). -/
def dec (w : List Bool) (ac : Bool) : List Bool × Nat × Bool :=
  let S := synd w
  let (w', f) := if ac then corr w else (w, false)
  (ext w', S, f)

end Sys2Proof.Machine
end

