-- ==== Sys2Proof/Machine/State.lean ====
section
/-! DEFINITION. The state of one instance as plain data: the response register set (10_state.md R20), the wires of its
port (30_encoding.md R61) and the request it holds between acceptance and completion (R61, 70_reset_and_hazards.md
R206); why a step or a host action can stop; and the state right after reset (R200). -/

namespace Sys2Proof.Machine

/-- A request accepted and not yet completed: the captured copies of req_hdr and req_bits (R61, R206) and how many more
clock edges pass before the edge that completes it. It lives only for the duration of the request (R29). -/
structure Captured (n : Nat) where
  hdr  : Header
  bits : BitVec n
  left : Nat
  deriving DecidableEq, Repr

/-- One instance. -/
structure State where
  /-- The build parameter D_MAX (R6). No step changes it (log 1). -/
  cfg        : Cfg
  /-- RSP_VALID (R20, R22). -/
  rspValid   : Bool
  /-- RSP_STATUS (R20, R170). -/
  rspStatus  : BitVec 3
  /-- RSP_FLIPPED (R20, R23). -/
  rspFlipped : Bool
  /-- RSP_LEN (R20). -/
  rspLen     : Word
  /-- RSP_VALUE (R20). -/
  rspValue   : Word
  /-- RSP_BITS, N_MAX bits (R20, R7). -/
  rspBits    : BitVec cfg.nMax
  /-- The input wire rst, as the host drives it at the next edge (R61). -/
  rst        : Bool
  /-- The input wire req_valid (R61). -/
  reqValid   : Bool
  /-- The input wires req_hdr (R60). -/
  reqHdr     : Header
  /-- The input wires req_bits, N_MAX of them (R60). -/
  reqBits    : BitVec cfg.nMax
  /-- The request in progress, if one is (R61). -/
  inFlight   : Option (Captured cfg.nMax)
  /-- The completion pulse: 1 in the cycle after a completion (R61). -/
  done       : Bool
  deriving DecidableEq, Repr

/-- Why something stops with a fault. No step of the block does: it takes no trap and every request completes
(60_exceptions.md R175). -/
inductive Fault where
  /-- A read of RSP_STATUS found a code no rule writes, 0b101 to 0b111 (93_implementation_defined.md I15). Raised by
  `State.readStatus`, the host's read, never by a request. Safe: a run that starts with a reset never meets it. Log 8. -/
  | reservedStatus (code : BitVec 3)
  deriving DecidableEq, Repr

/-- Why something is refused. No request is. -/
inductive Refusal where
  /-- The instruction has no meaning yet. Raised by a refused arm of `exec`; there is none. Safe. -/
  | notModelled (mnemonic : String)
  /-- The host changed req_hdr or req_bits while req_valid = 1 and before the accepting edge (93 I18, R206). Raised by
  `runCycles`, the checked run of clock edges. Safe: the spec has the host hold them. Log 9. -/
  | unstableRequest
  /-- The host named an instance the system does not have. Raised by `stepInstance`. Safe. Log 12. -/
  | noSuchInstance
  deriving DecidableEq, Repr

/-- The state right after reset of an instance built for c: every response register at its reset value, no request in
progress, done = 0 (R20, R200). The wires the host drives idle: rst released, no request (log 5). -/
def State.resetFor (c : Cfg) : State where
  cfg := c
  rspValid := false
  rspStatus := 0b000#3
  rspFlipped := false
  rspLen := 0x0000#16
  rspValue := 0x0000#16
  rspBits := 0#c.nMax
  rst := false
  reqValid := false
  reqHdr := 0#40
  reqBits := 0#c.nMax
  inFlight := none
  done := false

/-- The state right after reset in the reference configuration, D_MAX = 256 (R6, log 1). -/
def State.reset : State := State.resetFor Config.reference

end Sys2Proof.Machine
end

