-- ==== Sys2Proof/Machine/Flags.lean ====
section
/-! DEFINITION. The two flags, RSP_STATUS and RSP_FLIPPED (10_state.md R23): the status codes (60_exceptions.md R170), the
status an outcome gives (43_decoder.md R132), and the host's read of a status. RSP_FLIPPED is the flag `corr` and
`dec` return (R140, R150). -/

namespace Sys2Proof.Machine

/-- The outcomes of a request (R170). -/
inductive Status where
  | none | located | outOfRange | invalidInput | invalidOp
  deriving DecidableEq, Repr

/-- The 3-bit code of a status (R170). -/
def statusCode : Status → BitVec 3
  | .none => 0b000
  | .located => 0b001
  | .outOfRange => 0b010
  | .invalidInput => 0b011
  | .invalidOp => 0b100

/-- status_of(S, n) (R132). -/
def statusOf (S n : Nat) : Status :=
  if S = 0 then .none else if S ≤ n then .located else .outOfRange

/-- The host's read of RSP_STATUS: the status, or a fault on a code that is never written (R170, 93 I15). -/
def State.readStatus (s : State) : Except Fault Status :=
  match s.rspStatus.toNat with
  | 0 => .ok .none
  | 1 => .ok .located
  | 2 => .ok .outOfRange
  | 3 => .ok .invalidInput
  | 4 => .ok .invalidOp
  | _ => .error (.reservedStatus s.rspStatus)

end Sys2Proof.Machine
end

