-- ==== Sys2Proof/Machine/Operands.lean ====
section
/-! DEFINITION. How operands come in and results go out: sequences on bit-vector buses (20_memory.md R40, R41), the
operand bus of the request being performed (30_encoding.md R61, R63), scalars (R12, R64). -/

namespace Sys2Proof.Machine

/-- The first L wires of a bus as a sequence: element i from bit i; wires from L on are ignored (R40, R41). -/
def takeBits {n : Nat} (L : Nat) (bus : BitVec n) : List Bool := (List.range L).map bus.getLsbD

/-- A sequence on a bus of n wires: element i on bit i, 0 on every wire from its length on (R40, R41). Elements from n on
have no wire and are dropped: DESIGN CHOICE, the spec does not say what becomes of them (log 19). -/
def packBits (n : Nat) (l : List Bool) : BitVec n := (BitVec.ofBoolListLE l).setWidth n

/-- A set of positions as a mask on a bus of n wires (R40, R113). -/
def maskOf (n : Nat) (ps : List Nat) : BitVec n := ps.foldl (fun m i => m ||| BitVec.twoPow n i) 0#n

/-- zext_16: a natural below 2^16 as a 16-bit field (R12). -/
def zext16 (v : Nat) : Word := BitVec.ofNat 16 v

/-- LOC_NONE, the locator's sentinel (43_decoder.md R135). -/
def locNone : Word := 0xFFFF#16

/-- The operand bus of the request being performed: its captured copy if it is in progress (R206), else what the wires
carry at the edge that accepts it (R61). -/
def State.operandBus (s : State) : BitVec s.cfg.nMax :=
  match s.inFlight with
  | some r => r.bits
  | none => s.reqBits

/-- The bit operand of length L of the request being performed (R41, R64). -/
def State.operand (s : State) (L : Nat) : List Bool := takeBits L s.operandBus

/-- RSP_BITS[RSP_LEN-1:0], the sequence a host reads (R41, R185). -/
def State.resultBits (s : State) : List Bool := takeBits s.rspLen.toNat s.rspBits

end Sys2Proof.Machine
end

