-- ==== Sys2Proof/Machine/Ops.lean ====
section
/-! DEFINITION. The named operations on the state: writing a response (00_scope.md R13), the checks the decoder requests
share (43_decoder.md R129), and what a clock edge does beside performing a request: reset (70_reset_and_hazards.md
R200), acceptance, waiting, idling (30_encoding.md R61); the output wires; the host's driving of the input wires.

The block takes no exception and returns from none (60_exceptions.md R175, R176): a request that cannot be performed
completes like any other, by `State.fail`. -/

namespace Sys2Proof.Machine

/-- respond(status, flipped, len, value, bits): completes the request, writing all six response registers at once (R13,
R21, R22). The captured request is gone (R29) and done pulses (R61). -/
def State.respond (s : State) (st : Status) (flipped : Bool) (len value : Nat) (bits : BitVec s.cfg.nMax) : State :=
  { s with
    rspValid := true
    rspStatus := statusCode st
    rspFlipped := flipped
    rspLen := zext16 len
    rspValue := zext16 value
    rspBits := bits
    inFlight := none
    done := true }

/-- fail(status): every field but the status and RSP_VALID is 0 (R13, R172). -/
def State.fail (s : State) (st : Status) : State := s.respond st false 0 0 0#s.cfg.nMax

/-- check_n() and what follows it: n = 0 and n > N_MAX fail with INVALID_INPUT, else the request goes on with the
codeword on the first n wires of the operand bus (R129). -/
def State.withCodeword (s : State) (n : Nat) (go : List Bool → State) : State :=
  if n = 0 then s.fail .invalidInput
  else if n > s.cfg.nMax then s.fail .invalidInput
  else go (s.operand n)

/-- What an edge with rst = 1 does: every response register to its reset value, the request in progress abandoned, done
not pulsed (R200). The input wires are the host's. -/
def State.resetEdge (s : State) : State :=
  { s with
    rspValid := false
    rspStatus := 0b000#3
    rspFlipped := false
    rspLen := 0x0000#16
    rspValue := 0x0000#16
    rspBits := 0#s.cfg.nMax
    inFlight := none
    done := false }

/-- An edge that accepts nothing and completes nothing: the done pulse of an earlier completion ends (R61). -/
def State.idle (s : State) : State := { s with done := false }

/-- The accepting edge: header and operand are captured, with `left` more edges to pass before the completing one (R61,
R206). -/
def State.accept (s : State) (left : Nat) : State :=
  { s with inFlight := some ⟨s.reqHdr, s.reqBits, left⟩, done := false }

/-- An edge of a request in progress that does not complete it yet. -/
def State.wait (s : State) (r : Captured s.cfg.nMax) (left : Nat) : State :=
  { s with inFlight := some ⟨r.hdr, r.bits, left⟩, done := false }

/-- The output wire req_ready: 0 from acceptance until completion (R61) and while rst = 1, 1 in the first cycle after
rst falls (R200). Log 3. -/
def State.reqReady (s : State) : Bool := !s.rst && s.inFlight.isNone

/-- The output wire done: the completion pulse, 0 while rst = 1 (R61, R200). Log 3. -/
def State.doneOut (s : State) : Bool := !s.rst && s.done

/-- The 36-bit response header word: status [2:0], flipped [3], len [19:4], value [35:20] (R66). -/
def State.rspWord (s : State) : BitVec 36 :=
  (s.rspValue.setWidth 36 <<< 20) ||| (s.rspLen.setWidth 36 <<< 4)
    ||| ((BitVec.ofBool s.rspFlipped).setWidth 36 <<< 3) ||| s.rspStatus.setWidth 36

/-- What the host drives onto the input wires for one edge: `bits` is the sequence on the operand bus from bit 0 on
(R40), the wires above it 0. -/
structure Pins where
  rst      : Bool
  reqValid : Bool
  hdr      : Header
  bits     : List Bool
  deriving DecidableEq, Repr

/-- The input wires as the host now drives them (R61, R189). DESIGN CHOICE: elements of the operand at index >= N_MAX
have no bus bit and are dropped, where the spec is silent (R10, R68); no response can show it (log 19). -/
def State.drive (s : State) (p : Pins) : State :=
  { s with rst := p.rst, reqValid := p.reqValid, reqHdr := p.hdr, reqBits := packBits s.cfg.nMax p.bits }

/-- The state with a request of header h on the port of a ready block, its operand bus left as the wires stand: the next
step performs it (log 6). -/
def State.placeRequest (s : State) (h : Header) : State :=
  { s with rst := false, reqValid := true, reqHdr := h, inFlight := none }

/-- The state of an instance at power-on, before the first reset: every response register, the request in progress and
done are free values of this draw; the input wires are as the host drives them (R201, 93 I10). A draw names one
power-up of one instance, so two instances (R9, R27) and two power-ups have draws, and with them values, of their own
(log 7). DESIGN CHOICE: what a request issued before the first reset does is open, since R201 only forbids it to the
host; the model steps from this state as from any other (log 20). -/
def State.powerOn (c : Cfg) (draw : Nat) (p : Pins) : State where
  cfg := c
  rspValid := Config.powerOnValid draw
  rspStatus := Config.powerOnStatus draw
  rspFlipped := Config.powerOnFlipped draw
  rspLen := Config.powerOnLen draw
  rspValue := Config.powerOnValue draw
  rspBits := BitVec.ofNat c.nMax (Config.powerOnBits draw)
  rst := p.rst
  reqValid := p.reqValid
  reqHdr := p.hdr
  reqBits := packBits c.nMax p.bits
  inFlight :=
    if Config.powerOnBusy draw then
      some ⟨Config.powerOnHdr draw, BitVec.ofNat c.nMax (Config.powerOnOperand draw), Config.powerOnLeft draw⟩
    else none
  done := Config.powerOnDone draw

end Sys2Proof.Machine
end

