-- ==== Sys2Proof/Machine/CoverRequest.lean ====
section
/-! DEFINITION. The coverage map request COVER (41_coverage_map.md R113). -/

namespace Sys2Proof.Machine

/-- COVER (R113): the coverage set of parity position p in length n as a mask, and its size. -/
def execCover (len sel : Word) (s : State) : Host.Outcome State Fault Refusal :=
  let n := len.toNat
  let p := sel.toNat
  .next (if n = 0 ∨ n > s.cfg.nMax then s.fail .invalidInput
    else if p ≥ n ∨ isPar p = false then s.fail .invalidInput
    else s.respond .none false n (cov n p).length (maskOf s.cfg.nMax (cov n p)))

end Sys2Proof.Machine
end

