-- ==== Sys2Proof/Machine/DecodeRequests.lean ====
section
/-! DEFINITION. The decoder requests SYND, LOCATE, CORRECT, EXTRACT and DECODE (43_decoder.md R132, R137, R142, R147,
R152), each on the codeword that the shared length check lets through (R129). -/

namespace Sys2Proof.Machine

/-- SYND (R132): the syndrome sum S. -/
def execSynd (len : Word) (s : State) : Host.Outcome State Fault Refusal :=
  .next (s.withCodeword len.toNat fun w =>
    s.respond (statusOf (synd w) len.toNat) false 0 (synd w) 0#s.cfg.nMax)

/-- LOCATE (R137): the position S - 1, or LOC_NONE when S = 0 (R135). -/
def execLocate (len : Word) (s : State) : Host.Outcome State Fault Refusal :=
  .next (s.withCodeword len.toNat fun w =>
    s.respond (statusOf (synd w) len.toNat) false 0
      (if synd w = 0 then locNone.toNat else synd w - 1) 0#s.cfg.nMax)

/-- CORRECT (R142): the corrected codeword. -/
def execCorrect (len : Word) (s : State) : Host.Outcome State Fault Refusal :=
  .next (s.withCodeword len.toNat fun w =>
    s.respond (statusOf (synd w) len.toNat) (corr w).2 len.toNat (synd w) (packBits s.cfg.nMax (corr w).1))

/-- EXTRACT (R147): the data bits as they stand; no syndrome is computed. -/
def execExtract (len : Word) (s : State) : Host.Outcome State Fault Refusal :=
  .next (s.withCodeword len.toNat fun w =>
    s.respond .none false (ext w).length 0 (packBits s.cfg.nMax (ext w)))

/-- DECODE (ac = 1) and DECODE.RAW (ac = 0) (R152): the syndrome is reported either way. -/
def execDecode (len : Word) (ac : Bool) (s : State) : Host.Outcome State Fault Refusal :=
  .next (s.withCodeword len.toNat fun w =>
    let (data, S, f) := dec w ac
    s.respond (statusOf S len.toNat) f data.length S (packBits s.cfg.nMax data))

end Sys2Proof.Machine
end

