-- ==== Sys2Proof/Machine/EncodeRequest.lean ====
section
/-! DEFINITION. The encoder request ENCODE (42_encoder.md R122). -/

namespace Sys2Proof.Machine

/-- ENCODE (R122): d > D_MAX fails; d = 0 gives the empty codeword. -/
def execEncode (len : Word) (s : State) : Host.Outcome State Fault Refusal :=
  let d := len.toNat
  .next (if d > s.cfg.dMax then s.fail .invalidInput
    else
      let w := enc (s.operand d)
      s.respond .none false w.length (pbn d) (packBits s.cfg.nMax w))

end Sys2Proof.Machine
end

