-- ==== Sys2Proof/Machine/MathRequests.lean ====
section
/-! DEFINITION. The BitIndexMath requests PBN, MDB and ISPAR (40_bit_index_math.md R91, R94, R97). -/

namespace Sys2Proof.Machine

/-- PBN (R91): never fails; d is not bounded by D_MAX. -/
def execPbn (len : Word) (s : State) : Host.Outcome State Fault Refusal :=
  .next (s.respond .none false 0 (pbn len.toNat) 0#s.cfg.nMax)

/-- MDB (R94): n = 0 fails; n is not bounded by N_MAX. -/
def execMdb (len : Word) (s : State) : Host.Outcome State Fault Refusal :=
  .next (if len.toNat = 0 then s.fail .invalidInput
    else s.respond .none false 0 (mdb len.toNat) 0#s.cfg.nMax)

/-- ISPAR (R97): p + 1 without wrap; never fails. -/
def execIspar (sel : Word) (s : State) : Host.Outcome State Fault Refusal :=
  .next (s.respond .none false 0 (if isPar sel.toNat then 1 else 0) 0#s.cfg.nMax)

end Sys2Proof.Machine
end

