-- ==== Sys2Proof/Machine/Dispatch.lean ====
section
/-! DEFINITION. One arm per request (30_encoding.md R62): which meaning performs it. -/

namespace Sys2Proof.Machine

def exec (i : Instr) (s : State) : Host.Outcome State Fault Refusal :=
  match i with
  | .pbn len => Sys2Proof.Machine.execPbn len s
  | .mdb len => Sys2Proof.Machine.execMdb len s
  | .ispar sel => Sys2Proof.Machine.execIspar sel s
  | .cover len sel => Sys2Proof.Machine.execCover len sel s
  | .encode len => Sys2Proof.Machine.execEncode len s
  | .synd len => Sys2Proof.Machine.execSynd len s
  | .locate len => Sys2Proof.Machine.execLocate len s
  | .correct len => Sys2Proof.Machine.execCorrect len s
  | .extract len => Sys2Proof.Machine.execExtract len s
  | .decode len ac => Sys2Proof.Machine.execDecode len ac s

end Sys2Proof.Machine
end

