-- ==== Sys2Proof/Machine/Port.lean ====
section
/-! DEFINITION. The request port (30_encoding.md R61) at two grains over one state. `transact` is a whole transaction:
"one accepted request is one atomic step that writes the response registers" (R61). `clkEdge` is one rising edge of
clk: acceptance, capture, LATENCY, completion, reset (R61, 70_reset_and_hazards.md R200, R206, R210). -/

namespace Sys2Proof.Machine

/-- Performs the request a header spells; one that spells none completes with INVALID_OP (R65, R171). -/
def perform (h : Header) (s : State) : Host.Outcome State Fault Refusal :=
  match decodeHeader h with
  | .ok i => exec i s
  | .error _ => .next (s.fail .invalidOp)

/-- One transaction (log 2). With rst = 1, the reset edge (R200). Else a request in progress completes (R210: every
accepted request eventually does). Else a request on the port is accepted and performed. Else nothing happens. -/
def transact (s : State) : Host.Outcome State Fault Refusal :=
  if s.rst then .next s.resetEdge
  else match s.inFlight with
    | some r => perform r.hdr s
    | none => if s.reqValid then perform s.reqHdr s else .next s.idle

/-- One transaction after another, the host driving the input wires before each. -/
def runTransactions : List Pins → State → Host.Outcome State Fault Refusal
  | [], s => .next s
  | p :: ps, s =>
    match transact (s.drive p) with
    | .next t => runTransactions ps t
    | .fault f => .fault f
    | .refused r => .refused r

/-- LATENCY of the request a header carries (R8, R210). -/
def latencyOf (h : Header) : Nat := Config.latency (opField h) (lenField h)

/-- One rising edge of clk. A request accepted at an edge completes at the edge LATENCY cycles later; with LATENCY = 0
that is the accepting edge itself (log 4). While one is in progress none is accepted (R44, R61). -/
def clkEdge (s : State) : Host.Outcome State Fault Refusal :=
  if s.rst then .next s.resetEdge
  else match s.inFlight with
    | some r =>
      match r.left with
      | 0 => perform r.hdr s
      | left + 1 => .next (s.wait r left)
    | none =>
      if s.reqValid then
        match latencyOf s.reqHdr with
        | 0 => perform s.reqHdr s
        | left + 1 => .next (s.accept left)
      else .next s.idle

/-- One edge after another, the host driving the input wires before each. -/
def runEdges : List Pins → State → Host.Outcome State Fault Refusal
  | [], s => .next s
  | p :: ps, s =>
    match clkEdge (s.drive p) with
    | .next t => runEdges ps t
    | .fault f => .fault f
    | .refused r => .refused r

/-- The host breaks R206 at this edge: a request raised and not accepted here is changed at the next one while req_valid
stays 1 (93 I18, log 9). -/
def breaksHold (s : State) (p q : Pins) : Bool :=
  p.reqValid && !(s.drive p).reqReady && q.reqValid &&
    (q.hdr != p.hdr || packBits s.cfg.nMax q.bits != packBits s.cfg.nMax p.bits)

/-- `runEdges` for a host that keeps R206; a host that breaks it is refused (93 I18). -/
def runCycles : List Pins → State → Host.Outcome State Fault Refusal
  | [], s => .next s
  | p :: ps, s =>
    if (ps.head?.any (breaksHold s p)) then .refused .unstableRequest
    else match clkEdge (s.drive p) with
      | .next t => runCycles ps t
      | .fault f => .fault f
      | .refused r => .refused r

end Sys2Proof.Machine
end

