-- ==== Sys2Proof/Machine/Step.lean ====
section
/-! DEFINITION. The step of the machine, one transaction (Port.lean), and how the host places a request word. -/

namespace Sys2Proof.Machine

/-- One step: one transaction at the port (30_encoding.md R61). -/
def step (s : State) : Host.Outcome State Fault Refusal := transact s

/-- The state with a table word on the port as its next request. The block fetches nothing (10_state.md R25): the host
presents each request, and this stands for that (log 6). -/
def State.withFetchWord (s : State) (nbits w : Nat) : State := s.placeRequest (tableHeader nbits w)

end Sys2Proof.Machine
end

