-- ==== Sys2Proof/WellFormed.lean ====
section
/-! DEFINITION. What makes a term of the syntax well formed. A field of Instr has exactly the width the header gives
it and every value of it spells a request (30_encoding.md R64, R65), so every Instr is well formed by its type and
needs no check. The spec's ill-formed terms are assembler lines: R68 says which lines an assembler refuses. -/

namespace Sys2Proof

/-- Check 1 (R68): a number of a line fits 16 bits. -/
def fits16 (x : Nat) : Bool := x < 65536

/-- Check 2 (R68): a bit string holds no character other than 0 and 1. -/
def onlyBits (cs : List Char) : Bool := cs.all fun c => c == '0' || c == '1'

/-- Check 3 (R68, R70): the length operand equals the string's length; where it is absent it is that length. -/
def lengthAgrees (len : Option Nat) (cs : List Char) : Bool := len.getD cs.length == cs.length

/-- Check 4 (R70): only ENCODE, DECODE and DECODE.RAW may leave the length operand out. -/
def shorthandAllowed (m : BitsMnemonic) (len : Option Nat) : Bool :=
  len.isSome || m == .encode || m == .decode || m == .decodeRaw

/-- A line the assembler accepts (R68, R70). -/
def AsmLine.wellFormed : AsmLine → Bool
  | .pbn d => fits16 d
  | .mdb n => fits16 n
  | .ispar p => fits16 p
  | .cover n p => fits16 n && fits16 p
  | .withBits m len cs =>
    fits16 cs.length && onlyBits cs && lengthAgrees len cs && shorthandAllowed m len

end Sys2Proof
end

