-- ==== Sys2Proof/Machine/Asm.lean ====
section
/-! DEFINITION. The assembler (30_encoding.md R68 to R70): from a line to the header and the bit sequence of its request,
and from text to a line. It stands outside the block: the test vectors are written in it. -/

namespace Sys2Proof.Machine

/-- A request as a host hands it over: the header, and the sequence on the operand bus from bit 0 on. -/
structure Request where
  hdr  : Header
  bits : List Bool
  deriving DecidableEq, Repr

/-- The request a form with a bit string stands for (R68); DECODE.RAW is DECODE with ac = 0 (R70). -/
def instrOfBits (m : BitsMnemonic) (len : Word) : Instr :=
  match m with
  | .encode => .encode len
  | .synd => .synd len
  | .locate => .locate len
  | .correct => .correct len
  | .extract => .extract len
  | .decode => .decode len true
  | .decodeRaw => .decode len false

/-- The request a line spells; an absent length is the string's (R70). -/
def instrOfLine : AsmLine → Instr
  | .pbn d => .pbn (BitVec.ofNat 16 d)
  | .mdb n => .mdb (BitVec.ofNat 16 n)
  | .ispar p => .ispar (BitVec.ofNat 16 p)
  | .cover n p => .cover (BitVec.ofNat 16 n) (BitVec.ofNat 16 p)
  | .withBits m len cs => instrOfBits m (BitVec.ofNat 16 (len.getD cs.length))

/-- The bit sequence of a line: character i on bit i (R69). -/
def bitsOfLine : AsmLine → List Bool
  | .withBits _ _ cs => cs.map (· == '1')
  | .pbn _ | .mdb _ | .ispar _ | .cover _ _ => []

/-- Assembles a line, refusing an ill-formed one (R68, R69). -/
def assemble (l : AsmLine) : Option Request :=
  if l.wellFormed then some ⟨encodeHeader (instrOfLine l), bitsOfLine l⟩ else none

/-- The value of a digit, decimal or hexadecimal. -/
def digitValue (c : Char) : Option Nat :=
  if '0' ≤ c ∧ c ≤ '9' then some (c.toNat - 48)
  else if 'a' ≤ c ∧ c ≤ 'f' then some (c.toNat - 87)
  else if 'A' ≤ c ∧ c ≤ 'F' then some (c.toNat - 55)
  else none

/-- A numeral of digits below `base`, most significant first, on top of what is read so far. -/
def readDigits (base : Nat) : List Char → Nat → Option Nat
  | [], acc => some acc
  | c :: cs, acc =>
    match digitValue c with
    | some v => if v < base then readDigits base cs (acc * base + v) else none
    | none => none

/-- A number: decimal, or hexadecimal with the prefix 0x (R68). -/
def readNumber : List Char → Option Nat
  | [] => none
  | ['0', 'x'] => none
  | '0' :: 'x' :: cs => readDigits 16 cs 0
  | cs => readDigits 10 cs 0

/-- The double quote. -/
def quoteChar : Char := Char.ofNat 34

/-- A bit string between double quotes; which characters it may hold is a check of the line (R68). -/
def readQuoted (cs : List Char) : Option (List Char) :=
  match cs with
  | q :: rest =>
    if q = quoteChar ∧ rest.getLast? = some quoteChar then some rest.dropLast else none
  | [] => none

/-- Blanks at both ends removed. -/
def trimBlanks (cs : List Char) : List Char :=
  ((cs.dropWhile (· == ' ')).reverse.dropWhile (· == ' ')).reverse

/-- The pieces between commas (R68: operands are separated by commas). -/
def splitCommas : List Char → List (List Char)
  | [] => [[]]
  | c :: cs =>
    if c = ',' then [] :: splitCommas cs
    else match splitCommas cs with
      | piece :: more => (c :: piece) :: more
      | [] => [[c]]

/-- The mnemonics with a bit string, as text (R68). -/
def bitsMnemonicOf (m : List Char) : Option BitsMnemonic :=
  if m = "ENCODE".toList then some .encode
  else if m = "SYND".toList then some .synd
  else if m = "LOCATE".toList then some .locate
  else if m = "CORRECT".toList then some .correct
  else if m = "EXTRACT".toList then some .extract
  else if m = "DECODE".toList then some .decode
  else if m = "DECODE.RAW".toList then some .decodeRaw
  else none

/-- A line from its mnemonic and operands as text (R68, R70). -/
def lineOf (m : List Char) (operands : List (List Char)) : Option AsmLine :=
  match bitsMnemonicOf m, operands with
  | some b, [q] => do let cs ← readQuoted q; pure (.withBits b none cs)
  | some b, [n, q] => do let len ← readNumber n; let cs ← readQuoted q; pure (.withBits b (some len) cs)
  | none, [x] =>
    if m = "PBN".toList then (readNumber x).map .pbn
    else if m = "MDB".toList then (readNumber x).map .mdb
    else if m = "ISPAR".toList then (readNumber x).map .ispar
    else none
  | none, [x, y] =>
    if m = "COVER".toList then do let n ← readNumber x; let p ← readNumber y; pure (.cover n p)
    else none
  | _, _ => none

/-- A line of text: a mnemonic, then its operands (R68). Blanks may stand around every piece (log 14). -/
def parseLine (text : List Char) : Option AsmLine :=
  let t := trimBlanks text
  lineOf (t.takeWhile (· != ' ')) ((splitCommas (t.dropWhile (· != ' '))).map trimBlanks)

/-- Text to request; none where the assembler refuses the line. -/
def assembleText (text : List Char) : Option Request := (parseLine text).bind assemble

end Sys2Proof.Machine
end

