-- ==== Sys2Proof/Machine/System.lean ====
section
/-! DEFINITION. A system of INSTANCES copies of the block (00_scope.md R9, 60_exceptions.md R180): a list of states, one
per instance, that share nothing (10_state.md R27). An instance has no identifier register; its place in the list is
the host's name for it. -/

namespace Sys2Proof.Machine

/-- One transaction at instance k, the others untouched (R27, R45). -/
def stepInstance (k : Nat) (sys : List State) : Host.Outcome (List State) Fault Refusal :=
  match sys[k]? with
  | none => .refused .noSuchInstance
  | some s =>
    match step s with
    | .next t => .next (sys.set k t)
    | .fault f => .fault f
    | .refused r => .refused r

end Sys2Proof.Machine
end

