-- ==== Sys2Proof/Machine/Stream.lean ====
section
/-! DEFINITION. The host's side: issuing one request (60_exceptions.md R189), and the stream rules that bind the host
(R185 to R188), on one instance and spread over several (R187). None of it is in the block. -/

namespace Sys2Proof.Machine

/-- Why a host's stream ends without output. -/
inductive HostError where
  /-- InvalidInputError: a parameter the host refuses before any request, or a block that answered INVALID_INPUT (R185,
  R186). -/
  | invalidInput
  /-- The block gave no answer a stream can use; it never does. -/
  | noAnswer
  /-- The schedule of a spread stream leaves a block out, or names one or an instance that does not exist. -/
  | badSchedule
  deriving DecidableEq, Repr

/-- The host raises a request and keeps it until it is accepted: a request still in progress completes first (R44, R189).
The wires stay as driven. -/
def hostRequest (q : Request) (s : State) : Host.Outcome State Fault Refusal :=
  let driven := s.drive ⟨false, true, q.hdr, q.bits⟩
  match driven.inFlight with
  | none => step driven
  | some _ =>
    match step driven with
    | .next t => step t
    | .fault f => .fault f
    | .refused r => .refused r

/-- Issues one block of a stream and reads RSP_BITS[RSP_LEN-1:0]; INVALID_INPUT aborts (R186). -/
def runBlock (q : Request) (s : State) : Except HostError (List Bool × State) :=
  match hostRequest q s with
  | .next t =>
    match t.readStatus with
    | .ok .invalidInput => .error .invalidInput
    | .ok .invalidOp => .error .noAnswer
    | .ok _ => .ok (t.resultBits, t)
    | .error _ => .error .noAnswer
  | _ => .error .noAnswer

/-- Issues the blocks of a stream in order on one instance; the results in order, and the instance after. -/
def runBlocks : List Request → State → Except HostError (List (List Bool) × State)
  | [], s => .ok ([], s)
  | q :: qs, s =>
    match runBlock q s with
    | .error e => .error e
    | .ok (out, t) =>
      match runBlocks qs t with
      | .error e => .error e
      | .ok (outs, u) => .ok (out :: outs, u)

/-- Consecutive chunks of n elements, the last one perhaps shorter (R185), with fuel. -/
def chunksFrom : Nat → Nat → List Bool → List (List Bool)
  | 0, _, _ => []
  | fuel + 1, n, l => if l.isEmpty then [] else l.take n :: chunksFrom fuel n (l.drop n)

/-- Consecutive chunks of n elements (R185, R186). -/
def chunks (n : Nat) (l : List Bool) : List (List Bool) := chunksFrom l.length n l

/-- ENCODE |chunk|, chunk (R185). -/
def encodeRequest (chunk : List Bool) : Request :=
  ⟨encodeHeader (.encode (BitVec.ofNat 16 chunk.length)), chunk⟩

/-- DECODE n with ac = autocorrect (R186). -/
def decodeRequest (n : Nat) (ac : Bool) (chunk : List Bool) : Request :=
  ⟨encodeHeader (.decode (BitVec.ofNat 16 n) ac), chunk⟩

/-- The blocks of encode_stream(bits, d) for a block built with D_MAX = dMax, or the refusal of d = 0 and d > D_MAX
(R185). -/
def encodeBlocks (dMax d : Nat) (bits : List Bool) : Except HostError (List Request) :=
  if d = 0 ∨ d > dMax then .error .invalidInput else .ok ((chunks d bits).map encodeRequest)

/-- The blocks of decode_stream(bits, n, autocorrect), or the refusal of a stream that is no whole number of blocks
(R186), of n = 0 and of n that does not fit the len field (log 13). -/
def decodeBlocks (n : Nat) (ac : Bool) (bits : List Bool) : Except HostError (List Request) :=
  if n = 0 ∨ n ≥ 65536 ∨ bits.length % n ≠ 0 then .error .invalidInput
  else .ok ((chunks n bits).map (decodeRequest n ac))

/-- encode_stream(bits, d) on one instance (R185). -/
def encodeStream (d : Nat) (bits : List Bool) (s : State) : Except HostError (List Bool × State) :=
  match encodeBlocks s.cfg.dMax d bits with
  | .error e => .error e
  | .ok qs =>
    match runBlocks qs s with
    | .error e => .error e
    | .ok (outs, t) => .ok (outs.flatten, t)

/-- decode_stream(bits, n, autocorrect) on one instance (R186). -/
def decodeStream (n : Nat) (ac : Bool) (bits : List Bool) (s : State) : Except HostError (List Bool × State) :=
  match decodeBlocks n ac bits with
  | .error e => .error e
  | .ok qs =>
    match runBlocks qs s with
    | .error e => .error e
    | .ok (outs, t) => .ok (outs.flatten, t)

/-- The blocks of a stream performed in the order of a schedule: each entry names a block and the instance that performs
it, in order of completion. The results are tagged with their block (R180, R187). -/
def runSchedule (qs : List Request) : List (Nat × Nat) → List State → Except HostError (List (Nat × List Bool))
  | [], _ => .ok []
  | (j, k) :: rest, sys =>
    match qs[j]?, sys[k]? with
    | some q, some s =>
      match runBlock q s with
      | .error e => .error e
      | .ok (out, t) =>
        match runSchedule qs rest (sys.set k t) with
        | .error e => .error e
        | .ok outs => .ok ((j, out) :: outs)
    | _, _ => .error .badSchedule

/-- The results put back in input order (R45, R187). -/
def reassemble (m : Nat) (outs : List (Nat × List Bool)) : Except HostError (List Bool) :=
  match (List.range m).mapM (fun j => outs.lookup j) with
  | some l => .ok l.flatten
  | none => .error .badSchedule

/-- A stream's blocks spread over the instances of a system (R187). -/
def runSpread (qs : List Request) (schedule : List (Nat × Nat)) (sys : List State) : Except HostError (List Bool) :=
  match runSchedule qs schedule sys with
  | .error e => .error e
  | .ok outs => reassemble qs.length outs

end Sys2Proof.Machine
end

