-- ==== Sys2Proof/Safety.lean ====
section
/-! DEFINITION. What claims are stated in: what it is for a request to be answered, what a response register set a rule
can have written looks like, and the duties of the host (60_exceptions.md R189). -/

namespace Sys2Proof.Machine

/-- What completing a request leaves unchanged, and what it leaves of the port: the build parameter and every input
wire as they were (10_state.md R29), no request in progress, the done pulse up (30_encoding.md R61). -/
def CompletedFrom (s t : State) : Prop :=
  t.cfg = s.cfg ∧ t.rst = s.rst ∧ t.reqValid = s.reqValid ∧ t.reqHdr = s.reqHdr ∧
  t.reqBits.toNat = s.reqBits.toNat ∧ t.inFlight = none ∧ t.done = true

/-- t is s after a request that answers with these values: all six response registers (R20, R21), the numbers as
naturals, so that none is cut to its field, and RSP_BITS wire by wire; everything else by `CompletedFrom`. -/
def Answers (s t : State) (status : BitVec 3) (flipped : Bool) (len value : Nat) (bits : Nat → Bool) : Prop :=
  t.rspValid = true ∧ t.rspStatus = status ∧ t.rspFlipped = flipped ∧ t.rspLen.toNat = len ∧
  t.rspValue.toNat = value ∧ (∀ j, t.rspBits.getLsbD j = bits j) ∧ CompletedFrom s t

/-- A request that fails with this status: every other field is 0 (60_exceptions.md R172). -/
def FailsWith (s t : State) (status : BitVec 3) : Prop := Answers s t status false 0 0 fun _ => false

/-- The wires of a sequence: element i on wire i, 0 above (20_memory.md R40, R41). -/
def wires (l : List Bool) : Nat → Bool := fun j => l.getD j false

/-- The code of the outcome a syndrome sum S gives for length n: NONE, LOCATED or OUT_OF_RANGE (43_decoder.md R132,
60_exceptions.md R170). -/
def outcomeCode (S n : Nat) : BitVec 3 := if S = 0 then 0b000#3 else if S ≤ n then 0b001#3 else 0b010#3

/-- The causes of INVALID_INPUT, all of them (60_exceptions.md R173). -/
def BadOperand (c : Cfg) : Instr → Prop
  | .pbn _ | .ispar _ => False
  | .mdb n => n.toNat = 0
  | .cover n p => n.toNat = 0 ∨ c.nMax < n.toNat ∨ n.toNat ≤ p.toNat ∨ ¬ ∃ j, p.toNat + 1 = 2 ^ j
  | .encode d => c.dMax < d.toNat
  | .synd n | .locate n | .correct n | .extract n => n.toNat = 0 ∨ c.nMax < n.toNat
  | .decode n _ => n.toNat = 0 ∨ c.nMax < n.toNat

/-- How many wires of the operand bus a request reads, from wire 0 on (30_encoding.md R63, 20_memory.md R41). -/
def wiresRead : Instr → Nat
  | .pbn _ | .mdb _ | .ispar _ | .cover _ _ => 0
  | .encode d => d.toNat
  | .synd n | .locate n | .correct n | .extract n => n.toNat
  | .decode n _ => n.toNat

/-- The six response registers, as a host reads them; RSP_BITS as the number its wires spell. -/
def State.response (s : State) : Bool × BitVec 3 × Bool × Word × Word × Nat :=
  (s.rspValid, s.rspStatus, s.rspFlipped, s.rspLen, s.rspValue, s.rspBits.toNat)

/-- The reset values of the six response registers (R20). -/
def resetResponse : Bool × BitVec 3 × Bool × Word × Word × Nat :=
  (false, 0b000#3, false, 0x0000#16, 0x0000#16, 0)

/-- A response register set that reset or a request can have left: a status code that some rule writes (R170);
RSP_BITS 0 from RSP_LEN on (R41); RSP_LEN within the bus; a flip only beside LOCATED (43_decoder.md R142, R152);
nothing but the status after a failure (R172); the reset values while RSP_VALID = 0 (R22). -/
def State.ResponseOk (s : State) : Prop :=
  s.rspStatus.toNat ≤ 4 ∧
  (∀ j, s.rspLen.toNat ≤ j → s.rspBits.getLsbD j = false) ∧
  s.rspLen.toNat ≤ s.cfg.nMax ∧
  (s.rspFlipped = true → s.rspStatus = 0b001#3) ∧
  (s.rspStatus = 0b011#3 ∨ s.rspStatus = 0b100#3 →
    s.rspFlipped = false ∧ s.rspLen = 0#16 ∧ s.rspValue = 0#16 ∧ s.rspBits.toNat = 0) ∧
  (s.rspValid = false → s.response = resetResponse)

/-- A request is on the port of a block ready for it: the edge to come accepts it (R61). -/
def State.Accepting (s : State) : Prop := s.reqReady = true ∧ s.reqValid = true

/-- The host's duty to leave the reserved bits 0 (R189). -/
def hostHeaderOk (h : Header) : Bool := rsvField h == 0#3

end Sys2Proof.Machine
end

