-- ==== Sys2Proof/Certificates/Slice0/Obligations.lean ====
section
/-! DEFINITION. The statements about the model, from the spec's numbered rules. -/

open Sys2Proof Sys2Proof.Machine

/-! ## The step, the headers -/

/-- R61, R44, R200: what a step does in every state, and which operand bus the request it performs reads; and that a
table word placed on the port (log 6) is the request the very next step performs. -/
def Obligations.StepRunsTheRequestOnThePort : Prop :=
  ∀ s : State,
    (s.rst = true → step s = .next s.resetEdge) ∧
    (∀ r, s.rst = false → s.inFlight = some r →
      s.operandBus = r.bits ∧
      (∀ i, decodeHeader r.hdr = .ok i → step s = exec i s) ∧
      (∀ e, decodeHeader r.hdr = .error e → step s = .next (s.fail .invalidOp))) ∧
    (s.Accepting →
      s.operandBus = s.reqBits ∧
      (∀ i, decodeHeader s.reqHdr = .ok i → step s = exec i s) ∧
      (∀ e, decodeHeader s.reqHdr = .error e → step s = .next (s.fail .invalidOp))) ∧
    (s.reqReady = true → s.reqValid = false → step s = .next s.idle) ∧
    (∀ w i, decodeTableWord 40 w = some i →
      step (s.withFetchWord 40 w) = exec i (s.withFetchWord 40 w) ∧
      (s.withFetchWord 40 w).operandBus = s.reqBits ∧ (s.withFetchWord 40 w).response = s.response)

/-- One header of every row, written out from R60 and R62 (the test vectors' headers), decodes to its request. -/
def Obligations.WrittenOutHeadersDecode : Prop :=
  decodeHeader 0x0000000811 = .ok (.pbn 8) ∧ decodeHeader 0x0000000C12 = .ok (.mdb 12) ∧
  decodeHeader 0x00FF000013 = .ok (.ispar 255) ∧ decodeHeader 0x0007000C14 = .ok (.cover 12 7) ∧
  decodeHeader 0x0000000415 = .ok (.encode 4) ∧ decodeHeader 0x0000000716 = .ok (.synd 7) ∧
  decodeHeader 0x0000000717 = .ok (.locate 7) ∧ decodeHeader 0x0000000718 = .ok (.correct 7) ∧
  decodeHeader 0x0000000719 = .ok (.extract 7) ∧ decodeHeader 0x000000071A = .ok (.decode 7 true) ∧
  decodeHeader 0x000000070A = .ok (.decode 7 false) ∧
  decodeHeader 0x0000000000 = .error .reservedOp ∧ decodeHeader 0x0000000435 = .error .reservedBits

/-- Decoding the header an assembler writes for a request gives the request back, for every operand value. -/
def Obligations.DecodeOfEncodeGivesTheRequest : Prop :=
  ∀ i : Instr, decodeHeader (encodeHeader i) = .ok i

/-- R69: the header word of a request, as a number, and for the lines of the assembler. -/
def Obligations.AssembledHeaderIsTheSumOfItsFields : Prop :=
  (∀ i : Instr, (encodeHeader i).toNat =
    (selOf i).toNat * 2 ^ 24 + (lenOf i).toNat * 2 ^ 8 + (if acOf i then 2 ^ 4 else 0) + (opOf i).toNat) ∧
  (∀ i : Instr, acOf i = false ↔ ∃ n, i = .decode n false) ∧
  encodeHeader (.encode 4) = 0x0000000415

/-- R63, R65: fields an operation ignores do not change what a header spells. -/
def Obligations.IgnoredHeaderFieldsDoNotMatter : Prop :=
  ∀ h h' : Header, opField h = opField h' → rsvField h = rsvField h' →
    (opField h ≠ 0x3#4 → lenField h = lenField h') →
    (opField h = 0x3#4 ∨ opField h = 0x4#4 → selField h = selField h') →
    (opField h = 0xA#4 → acField h = acField h') →
    decodeHeader h = decodeHeader h'

/-- R65: exactly the headers with a reserved op or rsv != 0 spell no operation. -/
def Obligations.ExactlyReservedHeadersAreRejected : Prop :=
  ∀ h : Header, (∃ e, decodeHeader h = .error e) ↔
    (opField h = 0x0#4 ∨ 0xB ≤ (opField h).toNat ∨ rsvField h ≠ 0b000#3)

/-- R171: a reserved header completes with INVALID_OP, whether it is accepted in this step or in progress. -/
def Obligations.ReservedHeaderCompletesWithInvalidOp : Prop :=
  ∀ (s : State) (h : Header), s.rst = false →
    ((∃ r, s.inFlight = some r ∧ r.hdr = h) ∨ (s.Accepting ∧ s.reqHdr = h)) →
    (opField h = 0x0#4 ∨ 0xB ≤ (opField h).toNat ∨ rsvField h ≠ 0b000#3) →
    ∃ t, step s = .next t ∧ FailsWith s t 0b100#3

/-! ## What each request answers -/

/-- R91. -/
def Obligations.PbnAnswersTheParityCount : Prop :=
  ∀ (s : State) (d : Word), ∃ t, exec (.pbn d) s = .next t ∧
    Answers s t 0b000#3 false 0 (pbn d.toNat) fun _ => false

/-- R94, with mdb as the search of R93 computes it. -/
def Obligations.MdbAnswersTheLargestDataLength : Prop :=
  ∀ (s : State) (n : Word), ∃ t, exec (.mdb n) s = .next t ∧
    if n.toNat = 0 then FailsWith s t 0b011#3
    else Answers s t 0b000#3 false 0 (mdbSearch n.toNat) fun _ => false

/-- R97: p + 1 is a power of two on naturals, without wrap. -/
def Obligations.IsparAnswersWhetherAParityPosition : Prop :=
  ∀ (s : State) (p : Word), ∃ t, exec (.ispar p) s = .next t ∧
    ((∃ j, p.toNat + 1 = 2 ^ j) → Answers s t 0b000#3 false 0 1 fun _ => false) ∧
    ((¬ ∃ j, p.toNat + 1 = 2 ^ j) → Answers s t 0b000#3 false 0 0 fun _ => false)

/-- R113, with cov as the run procedure of R110 lists it. -/
def Obligations.CoverAnswersTheCoverageMask : Prop :=
  ∀ (s : State) (n p : Word), ∃ t, exec (.cover n p) s = .next t ∧
    (BadOperand s.cfg (.cover n p) → FailsWith s t 0b011#3) ∧
    (¬ BadOperand s.cfg (.cover n p) →
      Answers s t 0b000#3 false n.toNat (covRuns n.toNat p.toNat).length
        fun j => decide (j ∈ covRuns n.toNat p.toNat))

/-- R122: the codeword of the first d wires of the operand bus. -/
def Obligations.EncodeAnswersTheCodeword : Prop :=
  ∀ (s : State) (d : Word), ∃ t, exec (.encode d) s = .next t ∧
    if s.cfg.dMax < d.toNat then FailsWith s t 0b011#3
    else Answers s t 0b000#3 false (d.toNat + pbn d.toNat) (pbn d.toNat)
      (wires (enc (takeBits d.toNat s.operandBus)))

/-- R132. -/
def Obligations.SyndAnswersTheSyndromeSum : Prop :=
  ∀ (s : State) (n : Word), ∃ t, exec (.synd n) s = .next t ∧
    let S := synd (takeBits n.toNat s.operandBus)
    if n.toNat = 0 ∨ s.cfg.nMax < n.toNat then FailsWith s t 0b011#3
    else Answers s t (outcomeCode S n.toNat) false 0 S fun _ => false

/-- R137, R135: S - 1, or 0xFFFF where S = 0. -/
def Obligations.LocateAnswersThePosition : Prop :=
  ∀ (s : State) (n : Word), ∃ t, exec (.locate n) s = .next t ∧
    let S := synd (takeBits n.toNat s.operandBus)
    if n.toNat = 0 ∨ s.cfg.nMax < n.toNat then FailsWith s t 0b011#3
    else Answers s t (outcomeCode S n.toNat) false 0 (if S = 0 then 0xFFFF else S - 1) fun _ => false

/-- R142: wire j of the result is wire j of the codeword, inverted where j = S - 1 and S <= n. -/
def Obligations.CorrectAnswersTheCorrectedWord : Prop :=
  ∀ (s : State) (n : Word), ∃ t, exec (.correct n) s = .next t ∧
    let w := takeBits n.toNat s.operandBus
    if n.toNat = 0 ∨ s.cfg.nMax < n.toNat then FailsWith s t 0b011#3
    else Answers s t (outcomeCode (synd w) n.toNat) (decide (1 ≤ synd w ∧ synd w ≤ n.toNat)) n.toNat (synd w)
      fun j => xor (wires w j) (decide (j + 1 = synd w ∧ synd w ≤ n.toNat))

/-- R147: the values at the non-parity positions; RSP_LEN = m(n) = n - (floor(log2 n) + 1). -/
def Obligations.ExtractAnswersTheData : Prop :=
  ∀ (s : State) (n : Word), ∃ t, exec (.extract n) s = .next t ∧
    if n.toNat = 0 ∨ s.cfg.nMax < n.toNat then FailsWith s t 0b011#3
    else Answers s t 0b000#3 false (n.toNat - (Nat.log2 n.toNat + 1)) 0
      (wires (ext (takeBits n.toNat s.operandBus)))

/-- R152: the data of the corrected word (ac = 1) or of the word as it stands (ac = 0), with S and its status reported
either way. -/
def Obligations.DecodeAnswersTheData : Prop :=
  ∀ (s : State) (n : Word) (ac : Bool), ∃ t, exec (.decode n ac) s = .next t ∧
    let w := takeBits n.toNat s.operandBus
    if n.toNat = 0 ∨ s.cfg.nMax < n.toNat then FailsWith s t 0b011#3
    else Answers s t (outcomeCode (synd w) n.toNat) (ac && decide (1 ≤ synd w ∧ synd w ≤ n.toNat))
      (n.toNat - (Nat.log2 n.toNat + 1)) (synd w)
      (wires (ext (if ac then (corr w).1 else w)))

/-! ## All requests together -/

/-- R29, R61: what no request changes, and what it leaves of the port. -/
def Obligations.RequestsChangeOnlyTheResponse : Prop :=
  ∀ (i : Instr) (s t : State), exec i s = .next t → t.rspValid = true ∧ CompletedFrom s t

/-- R173: INVALID_INPUT has exactly the causes the table lists, and no request that decodes answers INVALID_OP. -/
def Obligations.InvalidInputHasExactlyItsCauses : Prop :=
  ∀ (i : Instr) (s : State), ∃ t, exec i s = .next t ∧
    (t.rspStatus = 0b011#3 ↔ BadOperand s.cfg i) ∧ t.rspStatus ≠ 0b100#3

/-- R172: a request that ends in INVALID_INPUT or INVALID_OP writes 0 to every other field and 1 to RSP_VALID. -/
def Obligations.FailedRequestsWriteNoPartialResult : Prop :=
  ∀ s t : State, s.rst = false → (s.inFlight ≠ none ∨ s.reqValid = true) → step s = .next t →
    (t.rspStatus = 0b011#3 ∨ t.rspStatus = 0b100#3) → FailsWith s t t.rspStatus

/-- R23: RSP_FLIPPED is 1 only after CORRECT, or DECODE with ac = 1, with status LOCATED. -/
def Obligations.OnlyCorrectionsSetFlipped : Prop :=
  ∀ (i : Instr) (s t : State), exec i s = .next t → t.rspFlipped = true →
    (∃ n, i = .correct n ∨ i = .decode n true) ∧ t.rspStatus = 0b001#3

/-- R65, R175, R178: every step in every state, at either grain, completes; no request faults or is refused, and the
wires the host drives are as they were. For a request before the first reset this is the model's choice (log 20). -/
def Obligations.EveryStepCompletes : Prop :=
  ∀ s : State,
    (∃ t, step s = .next t ∧ t.cfg = s.cfg ∧ t.rst = s.rst ∧ t.reqValid = s.reqValid ∧ t.reqHdr = s.reqHdr ∧
      t.reqBits.toNat = s.reqBits.toNat ∧ t.inFlight = none) ∧
    (∃ t, clkEdge s = .next t ∧ t.cfg = s.cfg ∧ t.rst = s.rst ∧ t.reqValid = s.reqValid ∧ t.reqHdr = s.reqHdr ∧
      t.reqBits.toNat = s.reqBits.toNat)

/-- Every transaction and every clock edge keeps the response registers a set that some rule can have written. -/
def Obligations.StepsKeepTheResponseWellFormed : Prop :=
  ∀ s t : State, s.ResponseOk → (step s = .next t ∨ clkEdge s = .next t) → t.ResponseOk

/-- The reset state of every configuration is such a set, and so is what any completed request leaves, whatever stood
before. -/
def Obligations.ResetResponseIsWellFormed : Prop :=
  ∀ c : Cfg, (State.resetFor c).ResponseOk

/-- R41, R170, R172 after one request, from any registers, reserved codes included. For a request before the first reset,
which R201 forbids to the host, it says what the model chose (log 20). -/
def Obligations.AnyRequestLeavesAWellFormedResponse : Prop :=
  ∀ (i : Instr) (s t : State), exec i s = .next t → t.ResponseOk

/-- R22: every completed request writes RSP_VALID 1; only reset clears it. -/
def Obligations.OnlyResetClearsValid : Prop :=
  ∀ s t : State, step s = .next t →
    (s.rst = true → t.rspValid = false) ∧
    (s.rst = false → (s.inFlight ≠ none ∨ s.reqValid = true) → t.rspValid = true) ∧
    (s.rst = false → s.inFlight = none → s.reqValid = false → t.rspValid = s.rspValid)

/-- R26: the response is a function of the request alone. -/
def Obligations.ResponseDependsOnTheRequestAlone : Prop :=
  ∀ s₁ s₂ : State, s₁.cfg = s₂.cfg → s₁.Accepting → s₂.Accepting → s₁.reqHdr = s₂.reqHdr →
    s₁.reqBits.toNat = s₂.reqBits.toNat →
    ∃ t₁ t₂, step s₁ = .next t₁ ∧ step s₂ = .next t₂ ∧ t₁.response = t₂.response

/-- R41: wires from the length on do not matter on input and are 0 on output. -/
def Obligations.WiresAboveTheLengthDoNotMatter : Prop :=
  ∀ (i : Instr) (s₁ s₂ : State), s₁.cfg = s₂.cfg →
    (∀ j, j < wiresRead i → s₁.operandBus.getLsbD j = s₂.operandBus.getLsbD j) →
    ∃ t₁ t₂, exec i s₁ = .next t₁ ∧ exec i s₂ = .next t₂ ∧ t₁.response = t₂.response ∧
      ∀ j, t₁.rspLen.toNat ≤ j → t₁.rspBits.getLsbD j = false

/-- R42, R207: a request issued again gives the same response, at once or after any gap of transactions without a
request, which keep the response and drop done. -/
def Obligations.RequestsAreIdempotent : Prop :=
  ∀ s t : State, s.Accepting → step s = .next t →
    (∃ u, step t = .next u ∧ u.response = t.response) ∧
    (∀ p : Pins, p.rst = false → p.reqValid = false →
      ∃ v, step (t.drive p) = .next v ∧ v.response = t.response ∧ v.doneOut = false) ∧
    (∀ gap : List Pins, (∀ p ∈ gap, p.rst = false ∧ p.reqValid = false) →
      ∃ v, runTransactions gap t = .next v ∧ v.response = t.response ∧
        ∀ q : Pins, q.rst = false → q.reqValid = true → q.hdr = s.reqHdr →
          packBits s.cfg.nMax q.bits = s.reqBits →
          ∃ u, step (v.drive q) = .next u ∧ u.response = t.response)

/-! ## Reset, the clock edges -/

/-- R200. -/
def Obligations.ResetEdgeWritesTheResetValues : Prop :=
  ∀ s : State, s.rst = true →
    s.reqReady = false ∧ s.doneOut = false ∧
    ∃ t, step s = .next t ∧ clkEdge s = .next t ∧ t.response = resetResponse ∧ t.inFlight = none ∧ t.done = false ∧
      t.reqReady = false ∧ t.doneOut = false ∧
      ∀ p : Pins, p.rst = false → (t.drive p).reqReady = true ∧ (t.drive p).doneOut = false

/-- R20, R200: the reset values, in every configuration. Two clauses rest on the model's choices: State.reset is the
reference configuration of R6 (log 1), and req_ready is 1 in State.resetFor because the model leaves its rst wire
released, 0 (log 5, DESIGN CHOICE). -/
def Obligations.ResetStateHoldsTheResetValues : Prop :=
  (∀ c : Cfg, (State.resetFor c).response = resetResponse ∧ (State.resetFor c).reqReady = true ∧
    (State.resetFor c).doneOut = false ∧ (State.resetFor c).inFlight = none) ∧
  State.reset = State.resetFor Config.reference ∧ State.reset.cfg.dMax = 256 ∧ State.reset.cfg.nMax = 265

/-- R201, R202: one edge with rst = 1 takes a block of any build from the power-on values of any draw (log 7) to the reset
state. -/
def Obligations.OneResetEdgeBootsTheBlock : Prop :=
  ∀ (c : Cfg) (draw : Nat) (p : Pins), p.rst = true →
    ∃ t, clkEdge (State.powerOn c draw p) = .next t ∧ t.drive ⟨false, false, 0#40, []⟩ = State.resetFor c

/-- R61, R44, R205, R206, R210 (LATENCY = 0 as log 4 reads it): an accepted request keeps the block busy and the old
response in place, whatever the wires carry meanwhile, and LATENCY edges later it has completed with the response of
the transaction; the done pulse then lasts one cycle, and an edge of a ready block with no request on its port keeps
the response and leaves it ready. -/
def Obligations.ClockEdgesCompleteAsTheTransaction : Prop :=
  (∀ s : State, s.Accepting →
    (latencyOf s.reqHdr = 0 → clkEdge s = step s) ∧
    ∀ k, latencyOf s.reqHdr = k + 1 →
      ∃ a u, clkEdge s = .next a ∧ step s = .next u ∧
        (∀ ps : List Pins, ps.length ≤ k → (∀ p ∈ ps, p.rst = false) →
          ∃ m, runEdges ps a = .next m ∧ m.response = s.response ∧ m.reqReady = false ∧ m.doneOut = false) ∧
        (∀ ps : List Pins, ps.length = k + 1 → (∀ p ∈ ps, p.rst = false) →
          ∃ t, runEdges ps a = .next t ∧ t.response = u.response ∧ t.reqReady = true ∧ t.doneOut = true ∧
            ∀ p : Pins, p.rst = false → p.reqValid = false →
              ∃ v, clkEdge (t.drive p) = .next v ∧ v.response = u.response ∧ v.reqReady = true ∧
                v.doneOut = false)) ∧
  (∀ s : State, s.reqReady = true → s.reqValid = false →
    ∃ v, clkEdge s = .next v ∧ v.response = s.response ∧ v.reqReady = true ∧ v.doneOut = false)

/-- R200 item 2, R208: reset abandons a request in progress; issued again it answers as on a fresh block. -/
def Obligations.ResetAbandonsTheRequest : Prop :=
  ∀ (s : State) (r : Captured s.cfg.nMax) (p q : Pins), s.inFlight = some r → p.rst = true → q.rst = false →
    q.reqValid = true →
    ∃ t u v, clkEdge (s.drive p) = .next t ∧ t.response = resetResponse ∧ t.inFlight = none ∧ t.done = false ∧
      step (t.drive q) = .next u ∧ step ((State.resetFor s.cfg).drive q) = .next v ∧ u.response = v.response

/-- R206; that a broken hold is refused is 93 I18 as log 9 reads it: the checked run of edges refuses a host that changes
a waiting request at any cycle it reaches, and is the plain run of edges for every host that does so at none. -/
def Obligations.UnstableRequestsAreRefused : Prop :=
  (∀ (s s' : State) (pre : List Pins) (p q : Pins) (post : List Pins),
    runEdges pre s = .next s' → breaksHold s' p q = true →
    runCycles (pre ++ p :: q :: post) s = .refused .unstableRequest) ∧
  (∀ (s : State) (ps : List Pins),
    (∀ (pre : List Pins) (p q : Pins) (post : List Pins) (s' : State),
      ps = pre ++ p :: q :: post → runEdges pre s = .next s' → breaksHold s' p q = false) →
    runCycles ps s = runEdges ps s)

/-- R66: the four fields of the response header word. -/
def Obligations.ResponseWordPacksItsFields : Prop :=
  ∀ s : State,
    s.rspWord.extractLsb' 0 3 = s.rspStatus ∧ s.rspWord.getLsbD 3 = s.rspFlipped ∧
    s.rspWord.extractLsb' 4 16 = s.rspLen ∧ s.rspWord.extractLsb' 20 16 = s.rspValue

/-- R170: the codes; and the host's read of them, which faults on a reserved code as 93 I15 says (log 8 places that fault
in the read). -/
def Obligations.StatusReadsBackOrFaults : Prop :=
  (statusCode .none = 0b000 ∧ statusCode .located = 0b001 ∧ statusCode .outOfRange = 0b010 ∧
    statusCode .invalidInput = 0b011 ∧ statusCode .invalidOp = 0b100) ∧
  ∀ s : State,
    (∀ st, s.rspStatus = statusCode st → s.readStatus = .ok st) ∧
    (5 ≤ s.rspStatus.toNat → s.readStatus = .error (.reservedStatus s.rspStatus))

/-! ## BitIndexMath -/

/-- R90. -/
def Obligations.PbnIsTheLeastSufficientCount : Prop :=
  (∀ d, d ≤ 2 ^ pbn d - pbn d - 1 ∧ ∀ k, k < pbn d → 2 ^ k - k - 1 < d) ∧
  (∀ d k, d ≤ 2 ^ k - k - 1 ↔ d + k + 1 ≤ 2 ^ k) ∧
  (∀ d k, 2 ≤ k → (pbn d = k ↔ 2 ^ (k - 1) - k + 1 ≤ d ∧ d ≤ 2 ^ k - k - 1)) ∧
  (∀ d, pbn d ≠ 1) ∧ pbn 0 = 0 ∧
  (∀ d, 1 ≤ d → d < 2000 → (pbn (d - 1) < pbn d ↔ d ∈ [1, 2, 5, 12, 27, 58, 121, 248, 503, 1014]))

/-- R92. -/
def Obligations.ParityPositionsAreCounted : Prop :=
  (parityPositions 0).length = 0 ∧
  (∀ n, 1 ≤ n → (parityPositions n).length = Nat.log2 n + 1) ∧
  (∀ d, (parityPositions (d + pbn d)).length = pbn d)

/-- R93: the closed form is the search, and the largest d with d + pbn(d) <= n; d + pbn(d) is strictly increasing. -/
def Obligations.MdbIsTheLargestThatFits : Prop :=
  (∀ n, mdb n = mdbSearch n) ∧
  (∀ n, mdb n + pbn (mdb n) ≤ n ∧ ∀ d, d + pbn d ≤ n → d ≤ mdb n) ∧
  (∀ d e, d < e → d + pbn d < e + pbn e) ∧
  (∀ n, 1 ≤ n → mdb n = n - (Nat.log2 n + 1))

/-- R95. -/
def Obligations.LengthRoundTrip : Prop :=
  (∀ d, mdb (d + pbn d) = d) ∧
  (∀ n, 1 ≤ n → ((∃ d, n = d + pbn d) ↔ ¬ ∃ j, n = 2 ^ j))

/-- R96. -/
def Obligations.ParityPositionsArePowersOfTwoLessOne : Prop :=
  (∀ p, isPar p = true ↔ ∃ j, p + 1 = 2 ^ j) ∧
  parityPositions 256 = [0, 1, 3, 7, 15, 31, 63, 127, 255]

/-! ## Coverage, encoder, decoder -/

/-- R110, R111: the run procedure and the bit test list the same positions in the same, ascending, order. -/
def Obligations.RunProcedureIsTheBitTest : Prop :=
  ∀ n p, isPar p = true → p < n →
    (∀ i, i ∈ covRuns n p ↔ i < n ∧ (i + 1) &&& (p + 1) ≠ 0) ∧ covRuns n p = cov n p ∧
    (covRuns n p).Pairwise (· < ·)

/-- R112, the four coverage laws. -/
def Obligations.CoverageLaws : Prop :=
  (∀ n p, isPar p = true → p < n → p ∈ cov n p) ∧
  (∀ n p q, isPar p = true → isPar q = true → q ≠ p → q ∉ cov n p) ∧
  (∀ n i, i < n → isPar i = false →
    ((parityPositions n).filter fun p => decide (i ∈ cov n p)).length = popcount (i + 1) ∧
    2 ≤ popcount (i + 1) ∧ popcount (i + 1) ≤ Nat.log2 n + 1) ∧
  (∀ n i, i < n →
    (((parityPositions n).filter fun p => decide (i ∈ cov n p)).map (· + 1)).sum = i + 1)

/-- R121: even parity over every group, placement in order, minimal length, the empty block. -/
def Obligations.EncoderLaws : Prop :=
  (∀ data : List Bool, ∀ p ∈ parityPositions (enc data).length, xorAt (enc data) (cov (enc data).length p) = false) ∧
  (∀ data : List Bool, (dataPositions (enc data).length).map (fun i => (enc data).getD i false) = data) ∧
  (∀ data : List Bool, (enc data).length = data.length + pbn data.length) ∧
  dataPositions 12 = [2, 4, 5, 6, 8, 9, 10, 11] ∧ enc [] = []

/-- R122, the corner cases of the encoder: one bit, all zeros, all ones of length 2^k - k - 1. -/
def Obligations.UniformDataEncodesUniformly : Prop :=
  (∀ b, enc [b] = [b, b, b]) ∧
  (∀ d, enc (List.replicate d false) = List.replicate (d + pbn d) false) ∧
  (∀ k, 2 ≤ k → enc (List.replicate (2 ^ k - k - 1) true) = List.replicate (2 ^ k - 1) true)

/-- R130: S is 0 iff no group mismatches, and at most 2^c - 1 with c parity positions. -/
def Obligations.SyndromeRange : Prop :=
  ∀ w : List Bool,
    (synd w = 0 ↔ ∀ p ∈ parityPositions w.length, expectedParity w p = w.getD p false) ∧
    synd w < 2 ^ (parityPositions w.length).length

/-- R131: the syndrome of a codeword with an error pattern is the xor of the 1-indexed flipped positions. -/
def Obligations.SyndromeIsTheXorOfFlippedPositions : Prop :=
  ∀ data e : List Bool, e.length = (enc data).length →
    synd (List.zipWith xor (enc data) e) =
      ((List.range e.length).filter fun i => e.getD i false).foldr (fun i S => (i + 1) ^^^ S) 0

/-- R131, its consequences: no error, one error, two errors, and three that pass as clean. -/
def Obligations.SyndromeOfFewFlips : Prop :=
  ∀ data : List Bool,
    synd (enc data) = 0 ∧
    (∀ i, i < (enc data).length → synd (flipAt (enc data) i) = i + 1) ∧
    (∀ a b, a < (enc data).length → b < (enc data).length → a ≠ b →
      let S := synd (flipAt (flipAt (enc data) a) b)
      S = (a + 1) ^^^ (b + 1) ∧ S ≠ 0 ∧ S ≠ a + 1 ∧ S ≠ b + 1) ∧
    (3 ≤ (enc data).length → synd (flipAt (flipAt (flipAt (enc data) 0) 1) 2) = 0)

/-- R140. -/
def Obligations.CorrectionFlipsAtMostOneBit : Prop :=
  ∀ w : List Bool,
    (corr w).1.length = w.length ∧
    ((corr w).2 = true ↔ 1 ≤ synd w ∧ synd w ≤ w.length) ∧
    (∀ j, j < w.length →
      (corr w).1.getD j false = xor (w.getD j false) ((corr w).2 && decide (j + 1 = synd w)))

/-- R145: the data in order, m(n) = mdb(n) of them. -/
def Obligations.ProjectionLength : Prop :=
  (∀ w : List Bool, 1 ≤ w.length →
    (ext w).length = w.length - (Nat.log2 w.length + 1) ∧ (ext w).length = mdbSearch w.length) ∧
  (∀ (w : List Bool) (d : Nat), w.length = d + pbn d → (ext w).length = d)

/-- R155 items 1 and 3, on the machine: ENCODE, then EXTRACT, CORRECT and DECODE of what it answered, on any block of the
same build. -/
def Obligations.EncodedDataRoundTrips : Prop :=
  ∀ (s : State) (d : Word), 1 ≤ d.toNat → d.toNat ≤ s.cfg.dMax →
    ∃ t, exec (.encode d) s = .next t ∧
      ∀ s' : State, s'.cfg = s.cfg →
        (∀ j, j < t.rspLen.toNat → s'.operandBus.getLsbD j = t.rspBits.getLsbD j) →
        (∃ u, exec (.extract t.rspLen) s' = .next u ∧
          Answers s' u 0b000#3 false d.toNat 0 (wires (takeBits d.toNat s.operandBus))) ∧
        (∃ u, exec (.correct t.rspLen) s' = .next u ∧
          Answers s' u 0b000#3 false t.rspLen.toNat 0 fun j => t.rspBits.getLsbD j) ∧
        (∀ ac, ∃ u, exec (.decode t.rspLen ac) s' = .next u ∧
          Answers s' u 0b000#3 false d.toNat 0 (wires (takeBits d.toNat s.operandBus)))

/-- R155 item 2, on the machine: any single flipped bit of an encoded block is located and corrected. -/
def Obligations.SingleFlipIsCorrected : Prop :=
  ∀ (s : State) (d : Word), 1 ≤ d.toNat → d.toNat ≤ s.cfg.dMax →
    ∃ t, exec (.encode d) s = .next t ∧
      ∀ (s' : State) (i : Nat), s'.cfg = s.cfg → i < t.rspLen.toNat →
        (∀ j, j < t.rspLen.toNat → s'.operandBus.getLsbD j = xor (t.rspBits.getLsbD j) (decide (j = i))) →
        (∃ u, exec (.locate t.rspLen) s' = .next u ∧ Answers s' u 0b001#3 false 0 i fun _ => false) ∧
        (∃ u, exec (.correct t.rspLen) s' = .next u ∧
          Answers s' u 0b001#3 true t.rspLen.toNat (i + 1) fun j => t.rspBits.getLsbD j) ∧
        (∃ u, exec (.decode t.rspLen true) s' = .next u ∧
          Answers s' u 0b001#3 true d.toNat (i + 1) (wires (takeBits d.toNat s.operandBus)))

/-- R155 item 4, R131 law 3, on the machine: a block with two flipped bits decodes with LOCATED or OUT_OF_RANGE, never
with NONE or an error, and S is the xor of the two 1-indexed positions. -/
def Obligations.DoubleFlipCompletesWithoutNone : Prop :=
  ∀ (s : State) (d : Word), 1 ≤ d.toNat → d.toNat ≤ s.cfg.dMax →
    ∃ t, exec (.encode d) s = .next t ∧
      ∀ (s' : State) (a b : Nat) (ac : Bool), s'.cfg = s.cfg → a < t.rspLen.toNat → b < t.rspLen.toNat → a ≠ b →
        (∀ j, j < t.rspLen.toNat →
          s'.operandBus.getLsbD j = xor (t.rspBits.getLsbD j) (decide (j = a ∨ j = b))) →
        ∃ u, exec (.decode t.rspLen ac) s' = .next u ∧ u.rspValue.toNat = (a + 1) ^^^ (b + 1) ∧
          ((u.rspStatus = 0b001#3 ∧ u.rspValue.toNat ≤ t.rspLen.toNat ∧ u.rspFlipped = ac) ∨
           (u.rspStatus = 0b010#3 ∧ t.rspLen.toNat < u.rspValue.toNat ∧ u.rspFlipped = false))

/-- R156: OUT_OF_RANGE on a corrupted encoder output means at least two flipped bits. -/
def Obligations.OutOfRangeMeansTwoErrors : Prop :=
  ∀ data e : List Bool, e.length = (enc data).length →
    (enc data).length < synd (List.zipWith xor (enc data) e) → 2 ≤ e.count true

/-! ## Instances, assembler, streams -/

/-- R27, R45: a transaction at one instance leaves every other as it was, and two at different instances give the same
system in either order. -/
def Obligations.InstancesAreIndependent : Prop :=
  (∀ (sys : List State) (k : Nat), k < sys.length →
    ∃ sys', stepInstance k sys = .next sys' ∧ sys'.length = sys.length ∧
      (∀ j, j ≠ k → sys'[j]? = sys[j]?) ∧
      ∃ s t, sys[k]? = some s ∧ step s = .next t ∧ sys'[k]? = some t) ∧
  (∀ (sys : List State) (j k : Nat), j ≠ k → j < sys.length → k < sys.length →
    ∃ a b c, stepInstance j sys = .next a ∧ stepInstance k a = .next c ∧
      stepInstance k sys = .next b ∧ stepInstance j b = .next c)

/-- R68, R69, R70: the assembler takes exactly the well-formed lines, and the header and operand it writes spell the
request of the line. -/
def Obligations.AssembledLinesSpellTheirRequest : Prop :=
  ∀ l : AsmLine,
    (l.wellFormed = false → assemble l = none) ∧
    (l.wellFormed = true → ∃ q, assemble l = some q ∧ decodeHeader q.hdr = .ok (instrOfLine l) ∧
      hostHeaderOk q.hdr = true ∧
      (acField q.hdr = false ↔ ∃ len cs, l = .withBits .decodeRaw len cs) ∧
      (∀ m len cs, l = .withBits m len cs →
        (lenField q.hdr).toNat = cs.length ∧ q.bits.length = cs.length ∧
        ∀ j, q.bits.getD j false = decide (cs[j]? = some '1')))

/-- R188: a stream of whole blocks, encoded and decoded, comes back, on any instance in any state. -/
def Obligations.StreamRoundTrip : Prop :=
  ∀ (s : State) (d : Nat) (bits : List Bool), 0 < d → d ≤ s.cfg.dMax → bits.length % d = 0 →
    ∃ out t u, encodeStream d bits s = .ok (out, t) ∧ out.length = bits.length / d * (pbn d + d) ∧
      decodeStream (pbn d + d) true out t = .ok (bits, u)

/-- R187, R45: however the blocks of a stream are spread over instances of one build and in whatever order they complete,
the output is that of one instance. -/
def Obligations.SpreadStreamKeepsInputOrder : Prop :=
  ∀ (c : Cfg) (sys : List State) (schedule : List (Nat × Nat)) (qs : List Request) (s t : State)
    (outs : List (List Bool)),
    (∀ x ∈ sys, x.cfg = c) → s.cfg = c → (∀ jk ∈ schedule, jk.2 < sys.length) →
    (schedule.map Prod.fst).Perm (List.range qs.length) →
    runBlocks qs s = .ok (outs, t) → runSpread qs schedule sys = .ok outs.flatten

/-- R185 (clause 1) and R186 (clauses 2 and 3): what makes a host refuse a stream before it issues any request, and that a
block's INVALID_INPUT aborts it. Two points are the model's choice (log 13): that the refusal of d > D_MAX is
InvalidInputError like that of d = 0 (DEDUCED), and that clause 3 at n >= 65536 is refused before any request, since
the len field cannot hold n (DESIGN CHOICE). -/
def Obligations.BadStreamsAreRejected : Prop :=
  (∀ (s : State) (d : Nat) (bits : List Bool), (d = 0 ∨ s.cfg.dMax < d) →
    encodeStream d bits s = .error .invalidInput) ∧
  (∀ (s : State) (n : Nat) (ac : Bool) (bits : List Bool), n ≠ 0 → bits.length % n ≠ 0 →
    decodeStream n ac bits s = .error .invalidInput) ∧
  (∀ (s : State) (n : Nat) (ac : Bool) (bits : List Bool), s.cfg.nMax < n → bits ≠ [] →
    decodeStream n ac bits s = .error .invalidInput)
end

