-- ==== Sys2Proof/Laws/BitIndexMath.lean ====
section
/-! SUPPORT. Bounds of the parity count and of the derived build parameters (00_scope.md R6). -/

namespace Sys2Proof.Machine

theorem pbnFrom_le (fuel k d K : Nat) (hK : d ≤ 2 ^ K - K - 1) (hk : k ≤ K) : pbnFrom fuel k d ≤ K := by
  induction fuel generalizing k with
  | zero => simpa [pbnFrom] using hk
  | succ fuel ih =>
    unfold pbnFrom
    split
    · rename_i h
      have : k ≠ K := by rintro rfl; omega
      exact ih _ (by omega)
    · exact hk

/-- A count that suffices bounds pbn (R90). -/
theorem pbn_le {d K : Nat} (hK : d ≤ 2 ^ K - K - 1) : pbn d ≤ K := pbnFrom_le _ _ _ _ hK (Nat.zero_le K)

/-- Every codeword length fits 16 bits: N_MAX <= 65535 (R6). -/
theorem nMax_le (c : Cfg) : c.nMax ≤ 65535 := by
  have h16 : c.kMax ≤ 16 := pbn_le (by have := c.le_max; omega)
  have := c.le_max
  unfold Cfg.nMax
  omega

theorem one_le_nMax (c : Cfg) : 1 ≤ c.nMax := Nat.le_add_right_of_le c.one_le

end Sys2Proof.Machine
end

