-- ==== Sys2Proof/Laws/Codec.lean ====
section
/-! SUPPORT. Lengths and single elements of the sequences the codec functions build. -/

namespace Sys2Proof.Machine

theorem placeData_length (is : List Nat) (data : List Bool) : (placeData is data).length = is.length := by
  induction is generalizing data with
  | nil => rfl
  | cons i is ih => simp only [placeData]; split <;> simp [ih]

theorem foldl_set_length (f : List Bool → Nat → Bool) (ps : List Nat) (w : List Bool) :
    (ps.foldl (fun w p => w.set p (f w p)) w).length = w.length := by
  induction ps generalizing w with
  | nil => rfl
  | cons p ps ih => simp [ih]

@[simp] theorem setParities_length (w : List Bool) : (setParities w).length = w.length :=
  foldl_set_length expectedParity _ _

@[simp] theorem enc_length (data : List Bool) : (enc data).length = data.length + pbn data.length := by
  simp [enc, placeData_length]

@[simp] theorem flipAt_length (w : List Bool) (i : Nat) : (flipAt w i).length = w.length := by
  simp [flipAt]

@[simp] theorem corr_length (w : List Bool) : (corr w).1.length = w.length := by
  simp only [corr]; split
  · rfl
  · split <;> simp

@[simp] theorem ext_length (w : List Bool) : (ext w).length = (dataPositions w.length).length := by
  simp [ext]

theorem mem_cov {n p i : Nat} : i ∈ cov n p ↔ i < n ∧ (i + 1) &&& (p + 1) ≠ 0 := by
  simp [cov]

theorem mem_parityPositions {n p : Nat} : p ∈ parityPositions n ↔ p < n ∧ isPar p = true := by
  simp [parityPositions]

theorem mem_dataPositions {n p : Nat} : p ∈ dataPositions n ↔ p < n ∧ isPar p = false := by
  simp [dataPositions]

end Sys2Proof.Machine
end

