-- ==== Sys2Proof/Laws/State.lean ====
section
/-! SUPPORT. What each update of the state leaves in each field, one lemma per field per update. -/

namespace Sys2Proof.Machine

variable (s : State)

@[simp] theorem State.respond_cfg (st : Status) (f : Bool) (len v : Nat) (b : BitVec s.cfg.nMax) : (s.respond st f len v b).cfg = s.cfg := rfl
@[simp] theorem State.respond_rspValid (st : Status) (f : Bool) (len v : Nat) (b : BitVec s.cfg.nMax) : (s.respond st f len v b).rspValid = true := rfl
@[simp] theorem State.respond_rspStatus (st : Status) (f : Bool) (len v : Nat) (b : BitVec s.cfg.nMax) : (s.respond st f len v b).rspStatus = statusCode st := rfl
@[simp] theorem State.respond_rspFlipped (st : Status) (f : Bool) (len v : Nat) (b : BitVec s.cfg.nMax) : (s.respond st f len v b).rspFlipped = f := rfl
@[simp] theorem State.respond_rspLen (st : Status) (f : Bool) (len v : Nat) (b : BitVec s.cfg.nMax) : (s.respond st f len v b).rspLen = zext16 len := rfl
@[simp] theorem State.respond_rspValue (st : Status) (f : Bool) (len v : Nat) (b : BitVec s.cfg.nMax) : (s.respond st f len v b).rspValue = zext16 v := rfl
@[simp] theorem State.respond_rspBits (st : Status) (f : Bool) (len v : Nat) (b : BitVec s.cfg.nMax) : (s.respond st f len v b).rspBits = b := rfl
@[simp] theorem State.respond_rst (st : Status) (f : Bool) (len v : Nat) (b : BitVec s.cfg.nMax) : (s.respond st f len v b).rst = s.rst := rfl
@[simp] theorem State.respond_reqValid (st : Status) (f : Bool) (len v : Nat) (b : BitVec s.cfg.nMax) : (s.respond st f len v b).reqValid = s.reqValid := rfl
@[simp] theorem State.respond_reqHdr (st : Status) (f : Bool) (len v : Nat) (b : BitVec s.cfg.nMax) : (s.respond st f len v b).reqHdr = s.reqHdr := rfl
@[simp] theorem State.respond_reqBits (st : Status) (f : Bool) (len v : Nat) (b : BitVec s.cfg.nMax) : (s.respond st f len v b).reqBits = s.reqBits := rfl
@[simp] theorem State.respond_inFlight (st : Status) (f : Bool) (len v : Nat) (b : BitVec s.cfg.nMax) : (s.respond st f len v b).inFlight = none := rfl
@[simp] theorem State.respond_done (st : Status) (f : Bool) (len v : Nat) (b : BitVec s.cfg.nMax) : (s.respond st f len v b).done = true := rfl

@[simp] theorem State.resetEdge_cfg : s.resetEdge.cfg = s.cfg := rfl
@[simp] theorem State.resetEdge_rspValid : s.resetEdge.rspValid = false := rfl
@[simp] theorem State.resetEdge_rspStatus : s.resetEdge.rspStatus = 0b000#3 := rfl
@[simp] theorem State.resetEdge_rspFlipped : s.resetEdge.rspFlipped = false := rfl
@[simp] theorem State.resetEdge_rspLen : s.resetEdge.rspLen = 0x0000#16 := rfl
@[simp] theorem State.resetEdge_rspValue : s.resetEdge.rspValue = 0x0000#16 := rfl
@[simp] theorem State.resetEdge_rspBits : s.resetEdge.rspBits = 0#s.cfg.nMax := rfl
@[simp] theorem State.resetEdge_rst : s.resetEdge.rst = s.rst := rfl
@[simp] theorem State.resetEdge_reqValid : s.resetEdge.reqValid = s.reqValid := rfl
@[simp] theorem State.resetEdge_reqHdr : s.resetEdge.reqHdr = s.reqHdr := rfl
@[simp] theorem State.resetEdge_reqBits : s.resetEdge.reqBits = s.reqBits := rfl
@[simp] theorem State.resetEdge_inFlight : s.resetEdge.inFlight = none := rfl
@[simp] theorem State.resetEdge_done : s.resetEdge.done = false := rfl

@[simp] theorem State.idle_cfg : s.idle.cfg = s.cfg := rfl
@[simp] theorem State.idle_rspValid : s.idle.rspValid = s.rspValid := rfl
@[simp] theorem State.idle_rspStatus : s.idle.rspStatus = s.rspStatus := rfl
@[simp] theorem State.idle_rspFlipped : s.idle.rspFlipped = s.rspFlipped := rfl
@[simp] theorem State.idle_rspLen : s.idle.rspLen = s.rspLen := rfl
@[simp] theorem State.idle_rspValue : s.idle.rspValue = s.rspValue := rfl
@[simp] theorem State.idle_rspBits : s.idle.rspBits = s.rspBits := rfl
@[simp] theorem State.idle_rst : s.idle.rst = s.rst := rfl
@[simp] theorem State.idle_reqValid : s.idle.reqValid = s.reqValid := rfl
@[simp] theorem State.idle_reqHdr : s.idle.reqHdr = s.reqHdr := rfl
@[simp] theorem State.idle_reqBits : s.idle.reqBits = s.reqBits := rfl
@[simp] theorem State.idle_inFlight : s.idle.inFlight = s.inFlight := rfl
@[simp] theorem State.idle_done : s.idle.done = false := rfl

@[simp] theorem State.accept_cfg (k : Nat) : (s.accept k).cfg = s.cfg := rfl
@[simp] theorem State.accept_rspValid (k : Nat) : (s.accept k).rspValid = s.rspValid := rfl
@[simp] theorem State.accept_rspStatus (k : Nat) : (s.accept k).rspStatus = s.rspStatus := rfl
@[simp] theorem State.accept_rspFlipped (k : Nat) : (s.accept k).rspFlipped = s.rspFlipped := rfl
@[simp] theorem State.accept_rspLen (k : Nat) : (s.accept k).rspLen = s.rspLen := rfl
@[simp] theorem State.accept_rspValue (k : Nat) : (s.accept k).rspValue = s.rspValue := rfl
@[simp] theorem State.accept_rspBits (k : Nat) : (s.accept k).rspBits = s.rspBits := rfl
@[simp] theorem State.accept_rst (k : Nat) : (s.accept k).rst = s.rst := rfl
@[simp] theorem State.accept_reqValid (k : Nat) : (s.accept k).reqValid = s.reqValid := rfl
@[simp] theorem State.accept_reqHdr (k : Nat) : (s.accept k).reqHdr = s.reqHdr := rfl
@[simp] theorem State.accept_reqBits (k : Nat) : (s.accept k).reqBits = s.reqBits := rfl
@[simp] theorem State.accept_inFlight (k : Nat) : (s.accept k).inFlight = some ⟨s.reqHdr, s.reqBits, k⟩ := rfl
@[simp] theorem State.accept_done (k : Nat) : (s.accept k).done = false := rfl

@[simp] theorem State.wait_cfg (r : Captured s.cfg.nMax) (k : Nat) : (s.wait r k).cfg = s.cfg := rfl
@[simp] theorem State.wait_rspValid (r : Captured s.cfg.nMax) (k : Nat) : (s.wait r k).rspValid = s.rspValid := rfl
@[simp] theorem State.wait_rspStatus (r : Captured s.cfg.nMax) (k : Nat) : (s.wait r k).rspStatus = s.rspStatus := rfl
@[simp] theorem State.wait_rspFlipped (r : Captured s.cfg.nMax) (k : Nat) : (s.wait r k).rspFlipped = s.rspFlipped := rfl
@[simp] theorem State.wait_rspLen (r : Captured s.cfg.nMax) (k : Nat) : (s.wait r k).rspLen = s.rspLen := rfl
@[simp] theorem State.wait_rspValue (r : Captured s.cfg.nMax) (k : Nat) : (s.wait r k).rspValue = s.rspValue := rfl
@[simp] theorem State.wait_rspBits (r : Captured s.cfg.nMax) (k : Nat) : (s.wait r k).rspBits = s.rspBits := rfl
@[simp] theorem State.wait_rst (r : Captured s.cfg.nMax) (k : Nat) : (s.wait r k).rst = s.rst := rfl
@[simp] theorem State.wait_reqValid (r : Captured s.cfg.nMax) (k : Nat) : (s.wait r k).reqValid = s.reqValid := rfl
@[simp] theorem State.wait_reqHdr (r : Captured s.cfg.nMax) (k : Nat) : (s.wait r k).reqHdr = s.reqHdr := rfl
@[simp] theorem State.wait_reqBits (r : Captured s.cfg.nMax) (k : Nat) : (s.wait r k).reqBits = s.reqBits := rfl
@[simp] theorem State.wait_inFlight (r : Captured s.cfg.nMax) (k : Nat) : (s.wait r k).inFlight = some ⟨r.hdr, r.bits, k⟩ := rfl
@[simp] theorem State.wait_done (r : Captured s.cfg.nMax) (k : Nat) : (s.wait r k).done = false := rfl

@[simp] theorem State.drive_cfg (p : Pins) : (s.drive p).cfg = s.cfg := rfl
@[simp] theorem State.drive_rspValid (p : Pins) : (s.drive p).rspValid = s.rspValid := rfl
@[simp] theorem State.drive_rspStatus (p : Pins) : (s.drive p).rspStatus = s.rspStatus := rfl
@[simp] theorem State.drive_rspFlipped (p : Pins) : (s.drive p).rspFlipped = s.rspFlipped := rfl
@[simp] theorem State.drive_rspLen (p : Pins) : (s.drive p).rspLen = s.rspLen := rfl
@[simp] theorem State.drive_rspValue (p : Pins) : (s.drive p).rspValue = s.rspValue := rfl
@[simp] theorem State.drive_rspBits (p : Pins) : (s.drive p).rspBits = s.rspBits := rfl
@[simp] theorem State.drive_rst (p : Pins) : (s.drive p).rst = p.rst := rfl
@[simp] theorem State.drive_reqValid (p : Pins) : (s.drive p).reqValid = p.reqValid := rfl
@[simp] theorem State.drive_reqHdr (p : Pins) : (s.drive p).reqHdr = p.hdr := rfl
@[simp] theorem State.drive_reqBits (p : Pins) : (s.drive p).reqBits = packBits s.cfg.nMax p.bits := rfl
@[simp] theorem State.drive_inFlight (p : Pins) : (s.drive p).inFlight = s.inFlight := rfl
@[simp] theorem State.drive_done (p : Pins) : (s.drive p).done = s.done := rfl

@[simp] theorem State.placeRequest_cfg (h : Header) : (s.placeRequest h).cfg = s.cfg := rfl
@[simp] theorem State.placeRequest_rspValid (h : Header) : (s.placeRequest h).rspValid = s.rspValid := rfl
@[simp] theorem State.placeRequest_rspStatus (h : Header) : (s.placeRequest h).rspStatus = s.rspStatus := rfl
@[simp] theorem State.placeRequest_rspFlipped (h : Header) : (s.placeRequest h).rspFlipped = s.rspFlipped := rfl
@[simp] theorem State.placeRequest_rspLen (h : Header) : (s.placeRequest h).rspLen = s.rspLen := rfl
@[simp] theorem State.placeRequest_rspValue (h : Header) : (s.placeRequest h).rspValue = s.rspValue := rfl
@[simp] theorem State.placeRequest_rspBits (h : Header) : (s.placeRequest h).rspBits = s.rspBits := rfl
@[simp] theorem State.placeRequest_rst (h : Header) : (s.placeRequest h).rst = false := rfl
@[simp] theorem State.placeRequest_reqValid (h : Header) : (s.placeRequest h).reqValid = true := rfl
@[simp] theorem State.placeRequest_reqHdr (h : Header) : (s.placeRequest h).reqHdr = h := rfl
@[simp] theorem State.placeRequest_reqBits (h : Header) : (s.placeRequest h).reqBits = s.reqBits := rfl
@[simp] theorem State.placeRequest_inFlight (h : Header) : (s.placeRequest h).inFlight = none := rfl
@[simp] theorem State.placeRequest_done (h : Header) : (s.placeRequest h).done = s.done := rfl

theorem State.fail_eq_respond (st : Status) : s.fail st = s.respond st false 0 0 0#s.cfg.nMax := rfl

end Sys2Proof.Machine
end

