-- ==== Sys2Proof/Laws/Ops.lean ====
section
/-! SUPPORT. What the shared operations do, one lemma each: sequences on buses, the length check of the decoder requests,
completing a request. -/

namespace Sys2Proof.Machine

@[simp] theorem takeBits_length {n : Nat} (L : Nat) (bus : BitVec n) : (takeBits L bus).length = L := by
  simp [takeBits]

theorem takeBits_getD {n : Nat} (L : Nat) (bus : BitVec n) (j : Nat) :
    (takeBits L bus).getD j false = (decide (j < L) && bus.getLsbD j) := by
  by_cases h : j < L <;> simp [takeBits, h]

theorem packBits_getLsbD (n : Nat) (l : List Bool) (j : Nat) :
    (packBits n l).getLsbD j = (decide (j < n) && l.getD j false) := by
  simp [packBits, BitVec.getLsbD_setWidth, BitVec.getLsbD_ofBoolListLE]

theorem maskOf_getLsbD (n : Nat) (ps : List Nat) (j : Nat) :
    (maskOf n ps).getLsbD j = (decide (j < n) && decide (j ∈ ps)) := by
  suffices h : ∀ m : BitVec n,
      (ps.foldl (fun m i => m ||| BitVec.twoPow n i) m).getLsbD j =
        (m.getLsbD j || (decide (j < n) && decide (j ∈ ps))) by
    simpa [maskOf] using h 0#n
  induction ps with
  | nil => simp
  | cons p ps ih =>
    intro m
    rw [List.foldl_cons, ih]
    by_cases h1 : j < n
    · by_cases h2 : p = j
      · subst h2; simp [h1]
      · have h3 : ¬ j = p := fun h => h2 h.symm
        simp [h1, h3]
    · have h4 : m.getLsbD j = false := BitVec.getLsbD_of_ge _ _ (by omega)
      simp [BitVec.getLsbD_twoPow, h1, h4]
      omega

@[simp] theorem State.operand_length (s : State) (L : Nat) : (s.operand L).length = L := by
  simp [State.operand]

/-- What the length check of the decoder requests can answer (R129). -/
theorem State.withCodeword_cases (s : State) (n : Nat) (go : List Bool → State) :
    ((n = 0 ∨ s.cfg.nMax < n) ∧ s.withCodeword n go = s.fail .invalidInput) ∨
    ((0 < n ∧ n ≤ s.cfg.nMax) ∧ s.withCodeword n go = go (s.operand n)) := by
  by_cases h0 : n = 0
  · exact .inl ⟨.inl h0, by simp [State.withCodeword, h0]⟩
  · by_cases h1 : s.cfg.nMax < n
    · exact .inl ⟨.inr h1, by simp [State.withCodeword, h0, h1]⟩
    · exact .inr ⟨⟨by omega, by omega⟩, by simp [State.withCodeword, h0, h1]⟩

theorem State.respond_completed (s : State) (st : Status) (f : Bool) (len v : Nat) (b : BitVec s.cfg.nMax) :
    CompletedFrom s (s.respond st f len v b) := by
  simp [CompletedFrom, State.respond]

/-- A response whose numbers fit their fields answers with exactly them. -/
theorem State.respond_answers (s : State) (st : Status) (f : Bool) {len v : Nat} (b : BitVec s.cfg.nMax)
    (hlen : len < 65536) (hv : v < 65536) :
    Answers s (s.respond st f len v b) (statusCode st) f len v fun j => b.getLsbD j := by
  refine ⟨rfl, rfl, rfl, ?_, ?_, fun _ => rfl, s.respond_completed ..⟩
  · simp [zext16, Nat.mod_eq_of_lt hlen]
  · simp [zext16, Nat.mod_eq_of_lt hv]

/-- A failure answers with its status and zeros (R172). -/
theorem State.fail_answers (s : State) (st : Status) : FailsWith s (s.fail st) (statusCode st) := by
  have h := s.respond_answers st false (len := 0) (v := 0) 0#s.cfg.nMax (by omega) (by omega)
  simpa [FailsWith, State.fail_eq_respond] using h

/-- The code of status_of(S, n) (R132). -/
theorem statusCode_statusOf (S n : Nat) : statusCode (statusOf S n) = outcomeCode S n := by
  unfold statusOf outcomeCode
  split
  · rfl
  · split <;> rfl

theorem State.operandBus_of_inFlight {s : State} {r : Captured s.cfg.nMax} (h : s.inFlight = some r) :
    s.operandBus = r.bits := by
  simp [State.operandBus, h]

theorem State.operandBus_of_none {s : State} (h : s.inFlight = none) : s.operandBus = s.reqBits := by
  simp [State.operandBus, h]

/-- A request waits for nothing: rst released, none in progress, one on the port. -/
theorem State.accepting_iff (s : State) :
    s.Accepting ↔ s.rst = false ∧ s.inFlight = none ∧ s.reqValid = true := by
  simp [State.Accepting, State.reqReady, and_assoc]

/-- The operand depends on the wires below its length only (R41). -/
theorem State.operand_congr (s₁ s₂ : State) (L : Nat)
    (h : ∀ j, j < L → s₁.operandBus.getLsbD j = s₂.operandBus.getLsbD j) : s₁.operand L = s₂.operand L := by
  simp only [State.operand, takeBits]
  exact List.map_congr_left fun j hj => h j (by simpa using hj)

/-- A response is what was written, whatever state it was written to. -/
theorem State.respond_response (s : State) (st : Status) (f : Bool) (len v : Nat) (b : BitVec s.cfg.nMax) :
    (s.respond st f len v b).response = (true, statusCode st, f, zext16 len, zext16 v, b.toNat) := rfl

end Sys2Proof.Machine
end

