-- ==== Sys2Proof/Laws/PerInstr.lean ====
section
/-! SUPPORT. Statements about every instruction as syntax, one lemma per constructor. -/

namespace Sys2Proof.Laws.HeaderFields

/-- The header an assembler writes has the request's op value and clear reserved bits (30_encoding.md R60, R69). -/
def Statement (i : Instr) : Prop :=
  opField (encodeHeader i) = opOf i ∧ rsvField (encodeHeader i) = 0#3

theorem packed (sel len : Word) (ac : Bool) (op : BitVec 4) :
    opField (packHeader sel len ac op) = op ∧ rsvField (packHeader sel len ac op) = 0#3 := by
  constructor
  · apply BitVec.eq_of_getLsbD_eq
    intro i hi
    have : i < 40 := by omega
    have h4 : i < 4 := hi
    have h8 : i < 8 := by omega
    have h24 : i < 24 := by omega
    simp [opField, packHeader, h4, this, h8, h24]
  · apply BitVec.eq_of_getLsbD_eq
    intro i hi
    have h3 : i < 3 := hi
    have h40 : 5 + i < 40 := by omega
    have h8 : 5 + i < 8 := by omega
    have h24 : 5 + i < 24 := by omega
    have h4 : ¬ (5 + i < 4) := by omega
    have h1 : ¬ (5 + i - 4 = 0) := by omega
    have hop : op.getLsbD (5 + i) = false := BitVec.getLsbD_of_ge _ _ (by omega)
    simp [rsvField, packHeader, h3, h40, h8, h24, h4, hop]
    intro
    omega

theorem pbn (len : Word) : Statement (.pbn len) := packed ..
theorem mdb (len : Word) : Statement (.mdb len) := packed ..
theorem ispar (sel : Word) : Statement (.ispar sel) := packed ..
theorem cover (len sel : Word) : Statement (.cover len sel) := packed ..
theorem encode (len : Word) : Statement (.encode len) := packed ..
theorem synd (len : Word) : Statement (.synd len) := packed ..
theorem locate (len : Word) : Statement (.locate len) := packed ..
theorem correct (len : Word) : Statement (.correct len) := packed ..
theorem extract (len : Word) : Statement (.extract len) := packed ..
theorem decode (len : Word) (ac : Bool) : Statement (.decode len ac) := packed ..

end Sys2Proof.Laws.HeaderFields
end

