-- ==== Sys2Proof/Laws/Step.lean ====
section
/-! SUPPORT. What a request, a transaction and a clock edge can do, said once: the inversion lemmas that invariants are
derived from. -/

namespace Sys2Proof.Machine

/-- Whatever a state update does in both branches, it is one response. -/
theorem State.withCodeword_respond (s : State) (n : Nat) (go : List Bool → State)
    (h : ∀ w, ∃ st f len v b, go w = s.respond st f len v b) :
    ∃ st f len v b, s.withCodeword n go = s.respond st f len v b := by
  rcases s.withCodeword_cases n go with ⟨-, h'⟩ | ⟨-, h'⟩
  · exact ⟨_, _, _, _, _, h'⟩
  · rw [h']; exact h _

/-- Every request completes by one write of the response registers (R13, R21). -/
theorem exec_responds (i : Instr) (s : State) :
    ∃ st f len v b, exec i s = .next (s.respond st f len v b) := by
  cases i with
  | pbn len => exact ⟨_, _, _, _, _, rfl⟩
  | mdb len =>
    by_cases h : len.toNat = 0
    · exact ⟨.invalidInput, false, 0, 0, _, by simp only [exec, execMdb, if_pos h]; rfl⟩
    · exact ⟨_, _, _, _, _, by simp only [exec, execMdb, if_neg h]; rfl⟩
  | ispar sel => exact ⟨_, _, _, _, _, rfl⟩
  | cover len sel =>
    simp only [exec, execCover]
    split
    · exact ⟨_, _, _, _, _, rfl⟩
    · split <;> exact ⟨_, _, _, _, _, rfl⟩
  | encode len =>
    simp only [exec, execEncode]
    split <;> exact ⟨_, _, _, _, _, rfl⟩
  | synd len | locate len | correct len | extract len | decode len ac =>
    simp only [exec, execSynd, execLocate, execCorrect, execExtract, execDecode, Host.Outcome.next.injEq]
    exact s.withCodeword_respond _ _ fun w => ⟨_, _, _, _, _, rfl⟩

theorem perform_responds (h : Header) (s : State) :
    ∃ st f len v b, perform h s = .next (s.respond st f len v b) := by
  unfold perform
  cases decodeHeader h with
  | ok i => exact exec_responds i s
  | error e => exact ⟨_, _, _, _, _, rfl⟩

/-- Everything a transaction can do. -/
theorem step_cases (s : State) :
    (s.rst = true ∧ step s = .next s.resetEdge) ∨
    (s.rst = false ∧ ∃ r, s.inFlight = some r ∧ step s = perform r.hdr s) ∨
    (s.rst = false ∧ s.inFlight = none ∧ s.reqValid = true ∧ step s = perform s.reqHdr s) ∨
    (s.rst = false ∧ s.inFlight = none ∧ s.reqValid = false ∧ step s = .next s.idle) := by
  unfold step transact
  cases hr : s.rst
  · cases hf : s.inFlight with
    | some r => exact .inr (.inl ⟨rfl, r, rfl, rfl⟩)
    | none => cases hv : s.reqValid <;> simp
  · simp

/-- Everything a clock edge can do. -/
theorem clkEdge_cases (s : State) :
    (s.rst = true ∧ clkEdge s = .next s.resetEdge) ∨
    (s.rst = false ∧ ∃ r, s.inFlight = some r ∧
      ((r.left = 0 ∧ clkEdge s = perform r.hdr s) ∨
       ∃ k, r.left = k + 1 ∧ clkEdge s = .next (s.wait r k))) ∨
    (s.rst = false ∧ s.inFlight = none ∧ s.reqValid = true ∧
      ((latencyOf s.reqHdr = 0 ∧ clkEdge s = perform s.reqHdr s) ∨
       ∃ k, latencyOf s.reqHdr = k + 1 ∧ clkEdge s = .next (s.accept k))) ∨
    (s.rst = false ∧ s.inFlight = none ∧ s.reqValid = false ∧ clkEdge s = .next s.idle) := by
  unfold clkEdge
  cases hr : s.rst
  · cases hf : s.inFlight with
    | some r =>
      refine .inr (.inl ⟨rfl, r, rfl, ?_⟩)
      cases hl : r.left with
      | zero => simp [hl]
      | succ k => simp [hl]
    | none =>
      cases hv : s.reqValid
      · simp
      · refine .inr (.inr (.inl ⟨rfl, rfl, rfl, ?_⟩))
        cases hl : latencyOf s.reqHdr with
        | zero => simp
        | succ k => simp
  · simp

/-- A run of edges goes on from where its first part ends. -/
theorem runEdges_append {ps qs : List Pins} {s m : State} (h : runEdges ps s = .next m) :
    runEdges (ps ++ qs) s = runEdges qs m := by
  induction ps generalizing s with
  | nil => cases h; rfl
  | cons p ps ih =>
    simp only [runEdges, List.cons_append] at h ⊢
    cases hc : clkEdge (s.drive p) with
    | next t => simp only [hc] at h ⊢; exact ih h
    | fault f => simp [hc] at h
    | refused r => simp [hc] at h

/-- A run of transactions goes on from where its first part ends. -/
theorem runTransactions_append {ps qs : List Pins} {s m : State} (h : runTransactions ps s = .next m) :
    runTransactions (ps ++ qs) s = runTransactions qs m := by
  induction ps generalizing s with
  | nil => cases h; rfl
  | cons p ps ih =>
    simp only [runTransactions, List.cons_append] at h ⊢
    cases hc : transact (s.drive p) with
    | next t => simp only [hc] at h ⊢; exact ih h
    | fault f => simp [hc] at h
    | refused r => simp [hc] at h

end Sys2Proof.Machine
end

