-- ==== Sys2Proof/Tests/Slice0.lean ====
section
/-! SUPPORT. Tests of the model against the spec's own vectors (95_test_vectors.md; the section stands beside each), and
for every statement with hypotheses a witness that meets them. Most run on a block built for D_MAX = 11 (N_MAX = 15):
an answer does not depend on the build where the operands fit. -/

namespace Sys2Proof.Tests

open Sys2Proof.Machine

/-- A block built for D_MAX = 11. -/
def small : Cfg := ⟨11, by decide, by decide⟩

/-- A block after reset with a request on its port. -/
def ready (c : Cfg) (h : Header) (bits : Nat) : State :=
  { State.resetFor c with reqValid := true, reqHdr := h, reqBits := BitVec.ofNat c.nMax bits }

/-- The same block with the request accepted and in progress, and another header on its wires. -/
def busy (c : Cfg) (h : Header) (bits left : Nat) : State :=
  { State.resetFor c with inFlight := some ⟨h, BitVec.ofNat c.nMax bits, left⟩ }

/-- The state an outcome gives, the reset state if it gives none. -/
def after : Host.Outcome State Fault Refusal → State
  | .next t => t
  | .fault _ | .refused _ => State.resetFor small

/-- The response an outcome leaves: valid, status, flipped, len, value, bits. -/
def answer : Host.Outcome State Fault Refusal → Option (Bool × BitVec 3 × Bool × Word × Word × Nat)
  | .next t => some t.response
  | .fault _ | .refused _ => none

/-- The response of one step on a request with this header and operand. -/
def ask (h : Header) (bits : Nat) : Option (Bool × BitVec 3 × Bool × Word × Word × Nat) :=
  answer (step (ready small h bits))

/-! ## Well-formedness: an ill-formed line for each check -/

theorem test_wf_number_too_wide : (AsmLine.pbn 65536).wellFormed = false := by decide
theorem test_wf_not_a_bit : (AsmLine.withBits .encode (some 2) ['1', '2']).wellFormed = false := by decide
theorem test_wf_length_differs : (AsmLine.withBits .encode (some 3) ['1', '0']).wellFormed = false := by decide
theorem test_wf_no_shorthand : (AsmLine.withBits .synd none ['1', '0']).wellFormed = false := by decide
theorem test_wf_accepts : (AsmLine.withBits .decode none ['1', '0']).wellFormed = true := by decide

/-! ## Decoding: words written out field by field from R60 and R62 (sel, len, rsv and ac, op) -/

theorem test_dec_pbn : decodeHeader 0x0000_0008_11 = .ok (.pbn 8) := by decide
theorem test_dec_mdb : decodeHeader 0x0000_0109_12 = .ok (.mdb 265) := by decide
theorem test_dec_ispar : decodeHeader 0xFFFF_0000_13 = .ok (.ispar 65535) := by decide
theorem test_dec_cover : decodeHeader 0x00FF_0109_14 = .ok (.cover 265 255) := by decide
theorem test_dec_encode : decodeHeader 0xFFFF_0004_05 = .ok (.encode 4) := by decide
theorem test_dec_synd : decodeHeader 0x0000_000C_16 = .ok (.synd 12) := by decide
theorem test_dec_locate : decodeHeader 0x0000_000C_17 = .ok (.locate 12) := by decide
theorem test_dec_correct : decodeHeader 0x0000_000C_18 = .ok (.correct 12) := by decide
theorem test_dec_extract : decodeHeader 0x0000_000C_19 = .ok (.extract 12) := by decide
theorem test_dec_decode : decodeHeader 0xABCD_0007_1A = .ok (.decode 7 true) := by decide
theorem test_dec_decode_raw : decodeHeader 0x0000_0007_0A = .ok (.decode 7 false) := by decide
theorem test_dec_reserved_op : decodeHeader 0x0000_0007_1B = .error .reservedOp := by decide
theorem test_dec_reserved_bits : decodeHeader 0x0002_0000_F4 = .error .reservedBits := by decide
theorem test_table_word : decodeTableWord 40 0x5 = some (.encode 0) := by decide

/-! ## Each request on the vectors of section 1 and 2 -/

-- 2.1
theorem test_pbn_8 : ask 0x0000000811 0 = some (true, 0, false, 0, 4, 0) := by decide
theorem test_pbn_65535 : ask 0x0000FFFF11 0 = some (true, 0, false, 0, 17, 0) := by decide
theorem test_mdb_0 : ask 0x0000000012 0 = some (true, 3, false, 0, 0, 0) := by decide
theorem test_mdb_65535 : ask 0x0000FFFF12 0 = some (true, 0, false, 0, 65519, 0) := by decide
theorem test_ispar_ignores_len : ask 0x0007123413 0 = some (true, 0, false, 0, 1, 0) := by decide
theorem test_ispar_no_wrap : ask 0xFFFF000013 0 = some (true, 0, false, 0, 1, 0) := by decide
-- 1.2, 2.2
theorem test_cover_12_3 : ask 0x0003000C14 0 = some (true, 0, false, 12, 5, 0x878) := by decide
theorem test_cover_not_parity : ask 0x0002000714 0 = some (true, 3, false, 0, 0, 0) := by decide
-- 1.6, 2.3 (stray bits above d)
theorem test_encode_byte : ask 0x0000000815 0x82 = some (true, 0, false, 12, 4, 0x891) := by decide
theorem test_encode_stray : ask 0x0000000415 0x7FFD = some (true, 0, false, 7, 3, 0x66) := by decide
-- 2.4
theorem test_synd_beyond : ask 0x0000000216 0x3 = some (true, 2, false, 0, 3, 0) := by decide
theorem test_synd_located : ask 0x0000000C16 0x91 = some (true, 1, false, 0, 12, 0) := by decide
theorem test_locate_none : ask 0x0000000317 0x7 = some (true, 0, false, 0, 0xFFFF, 0) := by decide
theorem test_locate_zero : ask 0x0000000117 0x1 = some (true, 1, false, 0, 0, 0) := by decide
-- 2.5
theorem test_correct_last : ask 0x0000000C18 0x91 = some (true, 1, true, 12, 12, 0x891) := by decide
theorem test_correct_beyond : ask 0x0000000C18 0x801 = some (true, 2, false, 12, 13, 0x801) := by decide
-- 2.6
theorem test_extract_corrupt : ask 0x0000000C19 0x8B1 = some (true, 0, false, 8, 0, 0x86) := by decide
theorem test_extract_empty : ask 0x0000000219 0x3 = some (true, 0, false, 0, 0, 0) := by decide
theorem test_decode_flip : ask 0x0000000C1A 0x8B1 = some (true, 1, true, 8, 6, 0x82) := by decide
theorem test_decode_raw : ask 0x0000000C0A 0x8B1 = some (true, 1, false, 8, 6, 0x86) := by decide
-- 2.7: INVALID_OP before INVALID_INPUT
theorem test_reserved_first : ask 0x0000000056 0 = some (true, 4, false, 0, 0, 0) := by decide
-- 2.2, the reference build: the group of position 255 in the longest codeword
theorem test_cover_nmax :
    answer (step (State.reset.withFetchWord 40 0x00FF010914)) =
      some (true, 0, false, 265, 10, (2 ^ 10 - 1) * 2 ^ 255) := by decide +kernel
-- R66, the response word of DECODE 7, "0100011" (1.4)
theorem test_response_word : (after (step (ready small 0x000000071A 0x62))).rspWord = 0x000300049#36 := by decide

/-! ## The port, the instances, the host -/

-- R206: the captured operand is used, not the wires
theorem test_captured_operand :
    answer (step (busy small 0x0000000415 0xD 5)) = some (true, 0, false, 7, 3, 0x66) := by decide
-- R200, R201: reset over a reserved status code
theorem test_reset_edge :
    answer (step { ready small 0x0000000415 0xD with rst := true, rspStatus := 0b111 }) = some resetResponse := by decide
theorem test_waiting :
    answer (clkEdge (busy small 0x0000000415 0xD 1)) = some resetResponse := by decide
-- R69, R70: the worked example, and a shorthand
theorem test_assemble :
    assemble (.withBits .encode (some 4) ['1', '0', '1', '1']) =
      some ⟨0x0000000415, [true, false, true, true]⟩ := by decide
theorem test_parse :
    parseLine ['C', 'O', 'V', 'E', 'R', ' ', ' ', '0', 'x', 'C', ',', ' ', '7'] = some (.cover 12 7) := by decide
-- P5: the stream of two blocks with bit 9 flipped
theorem test_stream :
    (match encodeStream 4 [true, false, true, true, false, true, false, false] (State.resetFor small) with
      | .ok (out, t) =>
        match decodeStream 7 true (flipAt out 9) t with
        | .ok (bits, _) => bits == [true, false, true, true, false, true, false, false]
        | .error _ => false
      | .error _ => false) = true := by decide

/-! ## Witnesses: states and operands that meet the hypotheses of the statements -/

/-- ENCODE 4, "1011" and what it answers. -/
def encState : State := ready small 0x0000000415 0xD
def encAfter : State := after (exec (.encode 4) encState)

theorem witness_StepRuns_reset : ({ encState with rst := true } : State).rst = true := rfl
theorem witness_StepRuns_inFlight :
    (busy small 0x0000000415 0xD 0).rst = false ∧
    (busy small 0x0000000415 0xD 0).inFlight = some ⟨0x0000000415, BitVec.ofNat _ 0xD, 0⟩ ∧
    decodeHeader 0x0000000415 = .ok (.encode 4) := ⟨rfl, rfl, by decide⟩
theorem witness_StepRuns_inFlight_rejected :
    (busy small 0 0xD 0).inFlight = some ⟨0, BitVec.ofNat _ 0xD, 0⟩ ∧ decodeHeader 0 = .error .reservedOp :=
  ⟨rfl, by decide⟩
theorem witness_StepRuns_accepting :
    encState.Accepting ∧ decodeHeader encState.reqHdr = .ok (.encode 4) := ⟨⟨rfl, rfl⟩, by decide⟩
theorem witness_StepRuns_rejected :
    (ready small 0 0).Accepting ∧ decodeHeader (ready small 0 0).reqHdr = .error .reservedOp :=
  ⟨⟨rfl, rfl⟩, by decide⟩
theorem witness_StepRuns_idle : State.reset.reqReady = true ∧ State.reset.reqValid = false := ⟨rfl, rfl⟩

theorem witness_StepRuns_placed : decodeTableWord 40 0x0000000415 = some (.encode 4) := by decide

theorem witness_IgnoredFields :
    let h : Header := 0x0000000415
    let h' : Header := 0xFFFF000405
    h ≠ h' ∧ opField h = opField h' ∧ rsvField h = rsvField h' ∧ lenField h = lenField h' ∧
    opField h ≠ 0x3#4 ∧ opField h ≠ 0x4#4 ∧ opField h ≠ 0xA#4 := by decide
theorem witness_IgnoredFields_ispar :
    let h : Header := 0x0007000013
    let h' : Header := 0x0007123403
    h ≠ h' ∧ opField h = opField h' ∧ rsvField h = rsvField h' ∧ opField h = 0x3#4 ∧
    selField h = selField h' := by decide
theorem witness_IgnoredFields_decode :
    let h : Header := 0x000000071A
    let h' : Header := 0xABCD00071A
    h ≠ h' ∧ opField h = opField h' ∧ rsvField h = rsvField h' ∧ opField h = 0xA#4 ∧
    lenField h = lenField h' ∧ acField h = acField h' := by decide

theorem witness_ReservedHeader_accepted :
    (ready small 0x000000071B 0).rst = false ∧ (ready small 0x000000071B 0).Accepting ∧
    0xB ≤ (opField 0x000000071B).toNat := ⟨rfl, ⟨rfl, rfl⟩, by decide⟩
theorem witness_ReservedHeader_inFlight :
    (busy small 0x0000000435 0xD 0).rst = false ∧
    (∃ r, (busy small 0x0000000435 0xD 0).inFlight = some r ∧ r.hdr = 0x0000000435#40) ∧
    rsvField 0x0000000435#40 ≠ 0b000#3 := ⟨rfl, ⟨_, rfl, rfl⟩, by decide⟩
theorem witness_ReservedHeader_zero : opField 0x0000000000 = 0x0#4 := by decide

/-! Boundaries of the clauses of the result statements, on N_MAX = 15, D_MAX = 11. -/

theorem witness_Ispar_clauses : (∃ j, (7#16).toNat + 1 = 2 ^ j) ∧ ¬ ∃ j, (2#16).toNat + 1 = 2 ^ j := by
  refine ⟨⟨3, by decide⟩, ?_⟩
  rintro ⟨j, hj⟩
  have h3 : 2 ^ j = 3 := by simpa using hj.symm
  rcases j with _ | _ | j
  · simp at h3
  · simp at h3
  · rw [Nat.pow_add] at h3
    omega
theorem witness_Cover_bad :
    BadOperand small (.cover 0 0) ∧ BadOperand small (.cover 16 0) ∧ BadOperand small (.cover 7 7) :=
  ⟨.inl rfl, .inr (.inl (by decide)), .inr (.inr (.inl (by decide)))⟩
theorem witness_Cover_good : ¬ BadOperand small (.cover 15 7) := by
  rintro (h | h | h | h)
  · exact absurd h (by decide)
  · exact absurd h (by decide)
  · exact absurd h (by decide)
  · exact h ⟨3, by decide⟩
theorem witness_Encode_clauses : ¬ small.dMax < (11#16).toNat ∧ small.dMax < (12#16).toNat := by decide
theorem witness_length_clauses :
    (0#16).toNat = 0 ∧ small.nMax < (16#16).toNat ∧
    ¬ ((1#16).toNat = 0 ∨ small.nMax < (1#16).toNat) ∧ ¬ ((15#16).toNat = 0 ∨ small.nMax < (15#16).toNat) := by decide
theorem test_encode_dmax : ask 0x0000000B15 0x7FF = some (true, 0, false, 15, 4, 0x7FFF) := by decide
theorem test_encode_above_dmax : ask 0x0000000C15 0x801 = some (true, 3, false, 0, 0, 0) := by decide
theorem test_synd_nmax : ask 0x0000000F16 0x7FFF = some (true, 0, false, 0, 0, 0) := by decide
theorem test_synd_above_nmax : ask 0x0000001016 0 = some (true, 3, false, 0, 0, 0) := by decide

theorem witness_exec_next : exec (.encode 4) encState = .next encAfter := rfl
theorem witness_FailedRequests :
    let s := ready small 0x0000000016 0
    s.rst = false ∧ s.reqValid = true ∧ step s = .next (after (step s)) ∧ (after (step s)).rspStatus = 0b011#3 := by
  refine ⟨rfl, rfl, rfl, by decide⟩
theorem witness_FailedRequests_inFlight :
    let s := busy small 0x0000000056 0 0
    s.rst = false ∧ s.inFlight ≠ none ∧ step s = .next (after (step s)) ∧ (after (step s)).rspStatus = 0b100#3 := by
  refine ⟨rfl, by decide, rfl, by decide⟩
theorem witness_OnlyCorrections :
    let s := ready small 0x0000000718 0x62
    exec (.correct 7) s = .next (after (exec (.correct 7) s)) ∧ (after (exec (.correct 7) s)).rspFlipped = true :=
  ⟨rfl, by decide⟩
theorem witness_StepsKeep :
    let s := State.resetFor small
    s.ResponseOk ∧ step s = .next s.idle ∧ clkEdge s = .next s.idle := by
  refine ⟨?_, rfl, rfl⟩
  refine ⟨by decide, fun j _ => ?_, by decide, by decide, by decide, fun _ => rfl⟩
  simp [State.resetFor]
theorem witness_OnlyResetClears :
    step ({ encState with rst := true } : State) = .next ({ encState with rst := true } : State).resetEdge ∧
    step encState = .next (after (step encState)) ∧ step State.reset = .next State.reset.idle := ⟨rfl, rfl, rfl⟩
theorem witness_ResponseDepends :
    let s₁ := encState
    let s₂ : State := { encState with rspStatus := 0b010, rspValue := 7, done := true }
    s₁ ≠ s₂ ∧ s₁.cfg = s₂.cfg ∧ s₁.Accepting ∧ s₂.Accepting ∧ s₁.reqHdr = s₂.reqHdr ∧
    s₁.reqBits.toNat = s₂.reqBits.toNat := by
  refine ⟨by decide, rfl, ⟨rfl, rfl⟩, ⟨rfl, rfl⟩, rfl, rfl⟩
theorem witness_WiresAbove :
    let s₁ := ready small 0x0000000415 0xD
    let s₂ := ready small 0x0000000415 0x7FFD
    s₁.reqBits.toNat ≠ s₂.reqBits.toNat ∧ s₁.cfg = s₂.cfg ∧
    ∀ j, j < wiresRead (.encode 4) → s₁.operandBus.getLsbD j = s₂.operandBus.getLsbD j :=
  ⟨by decide, rfl, by decide⟩
theorem witness_Idempotent :
    encState.Accepting ∧ step encState = .next (after (step encState)) ∧
    (⟨false, false, 0, []⟩ : Pins).rst = false ∧ (⟨false, false, 0, []⟩ : Pins).reqValid = false :=
  ⟨⟨rfl, rfl⟩, rfl, rfl, rfl⟩
theorem witness_Idempotent_gap :
    let gap : List Pins := [⟨false, false, 0x0000000056, [true]⟩, ⟨false, false, 0, []⟩]
    let q : Pins := ⟨false, true, 0x0000000415, [true, false, true, true]⟩
    (∀ p ∈ gap, p.rst = false ∧ p.reqValid = false) ∧ q.rst = false ∧ q.reqValid = true ∧ q.hdr = encState.reqHdr ∧
    packBits encState.cfg.nMax q.bits = encState.reqBits :=
  ⟨by decide, rfl, rfl, rfl, by decide⟩
theorem witness_ResetEdge : (busy small 0x0000000415 0xD 3).drive ⟨true, false, 0, []⟩ |>.rst := rfl
theorem witness_Boot : (⟨true, false, 0, []⟩ : Pins).rst = true ∧ (⟨false, true, 0x415, [true]⟩ : Pins).rst = false :=
  ⟨rfl, rfl⟩
theorem witness_ClockEdges :
    encState.Accepting ∧ (latencyOf encState.reqHdr = 0 ∨ ∃ k, latencyOf encState.reqHdr = k + 1) :=
  ⟨⟨rfl, rfl⟩, by cases latencyOf encState.reqHdr <;> simp⟩
theorem witness_ClockEdges_pins (k : Nat) :
    let p : Pins := ⟨false, true, 0x0000000056, [true]⟩
    (List.replicate k p).length ≤ k ∧ (List.replicate (k + 1) p).length = k + 1 ∧
    (∀ q ∈ List.replicate (k + 1) p, q.rst = false) := by
  refine ⟨by simp, by simp, ?_⟩
  intro q hq
  rw [List.eq_of_mem_replicate hq]
theorem witness_ClockEdges_after :
    (⟨false, false, 0, []⟩ : Pins).rst = false ∧ (⟨false, false, 0, []⟩ : Pins).reqValid = false := ⟨rfl, rfl⟩
theorem witness_ClockEdges_no_request :
    let s : State := { State.resetFor small with done := true }
    s.reqReady = true ∧ s.reqValid = false ∧ s.doneOut = true := ⟨rfl, rfl, rfl⟩
theorem witness_Abandon :
    (busy small 0x0000000415 0xD 3).inFlight = some ⟨0x0000000415, BitVec.ofNat _ 0xD, 3⟩ ∧
    (⟨true, false, 0, []⟩ : Pins).rst = true ∧ (⟨false, true, 0x415, [true]⟩ : Pins).rst = false ∧
    (⟨false, true, 0x415, [true]⟩ : Pins).reqValid = true := ⟨rfl, rfl, rfl, rfl⟩
/-- Two drives of a waiting request that differ in its operand. -/
def heldPins : Pins := ⟨false, true, 0x0000000415, [true]⟩
def changedPins : Pins := ⟨false, true, 0x0000000415, [false]⟩
theorem witness_Unstable_changed :
    let s := busy small 0x0000000415 0xD 3
    ∃ s', runEdges [heldPins] s = .next s' ∧ breaksHold s' heldPins changedPins = true :=
  ⟨_, rfl, by decide⟩
theorem witness_Unstable_held (pre : List Pins) (p q : Pins) (post : List Pins) (s' : State)
    (h : [heldPins, heldPins] = pre ++ p :: q :: post)
    (hr : runEdges pre (busy small 0x0000000415 0xD 3) = .next s') : breaksHold s' p q = false := by
  rcases pre with _ | ⟨x, _ | ⟨y, pre⟩⟩
  · simp only [List.nil_append, List.cons.injEq] at h
    obtain ⟨rfl, rfl, -⟩ := h
    cases hr
    decide
  · simp at h
  · simp at h
theorem witness_Status :
    State.reset.rspStatus = statusCode .none ∧ 5 ≤ ({ State.reset with rspStatus := 0b101 } : State).rspStatus.toNat := by
  decide
theorem witness_parity_position : isPar 7 = true ∧ 7 < 12 ∧ isPar 2 = false ∧ isPar 3 = true ∧ 3 ≠ 7 := by decide
theorem witness_ErrorPattern :
    [true, true, false, false, false, false, false].length = (enc [true, false, true, true]).length := by decide
theorem witness_Flips : 3 ≤ (enc [true, false, true, true]).length ∧ 2 < (enc [true, false, true, true]).length := by decide
theorem witness_OutOfRange :
    let data := [false, true, false, false, false, false, false, true]
    let e := [false, false, false, false, true, false, false, true, false, false, false, false]
    e.length = (enc data).length ∧ (enc data).length < synd (List.zipWith xor (enc data) e) := by decide
theorem witness_Correction : 2 < [false, true, false, false, false, true, true].length := by decide
theorem witness_Projection : [true, true, true].length = 1 + pbn 1 ∧ 1 ≤ [true].length := by decide
theorem witness_RoundTrip :
    let s' := ready small 0x0000000719 0x66
    1 ≤ (4#16).toNat ∧ (4#16).toNat ≤ encState.cfg.dMax ∧ exec (.encode 4) encState = .next encAfter ∧
    s'.cfg = encState.cfg ∧
    (∀ j, j < encAfter.rspLen.toNat → s'.operandBus.getLsbD j = encAfter.rspBits.getLsbD j) :=
  ⟨by decide, by decide, rfl, rfl, by decide⟩
theorem witness_SingleFlip :
    let s' := ready small 0x000000071A 0x62
    s'.cfg = encState.cfg ∧ 2 < encAfter.rspLen.toNat ∧
    (∀ j, j < encAfter.rspLen.toNat →
      s'.operandBus.getLsbD j = xor (encAfter.rspBits.getLsbD j) (decide (j = 2))) :=
  ⟨rfl, by decide, by decide⟩
theorem witness_DoubleFlip :
    let s' := ready small 0x000000071A 0x63
    s'.cfg = encState.cfg ∧ 0 < encAfter.rspLen.toNat ∧ 2 < encAfter.rspLen.toNat ∧
    (∀ j, j < encAfter.rspLen.toNat →
      s'.operandBus.getLsbD j = xor (encAfter.rspBits.getLsbD j) (decide (j = 0 ∨ j = 2))) :=
  ⟨rfl, by decide, by decide, by decide⟩
theorem witness_Instances : 0 < [encState, State.reset].length ∧ 1 < [encState, State.reset].length ∧ (0 : Nat) ≠ 1 := by decide
theorem witness_AssembledLines :
    (AsmLine.pbn 65536).wellFormed = false ∧ (AsmLine.withBits .decodeRaw (some 2) ['1', '0']).wellFormed = true := by decide
theorem witness_Stream : 0 < 4 ∧ 4 ≤ small.dMax ∧ [true, false, true, true, false, true, false, false].length % 4 = 0 := by
  decide
/-- A host's two blocks, both orders of completion, on two instances. -/
def spreadBlocks : List Request := [encodeRequest [true, false, true, true], encodeRequest [false, true, false, false]]
theorem witness_Spread :
    (∀ x ∈ [State.resetFor small, encState], x.cfg = small) ∧ (∀ jk ∈ [(1, 0), (0, 1)], jk.2 < 2) ∧
    ([(1, 0), (0, 1)].map Prod.fst).Perm (List.range spreadBlocks.length) ∧
    ∃ outs t, runBlocks spreadBlocks (State.resetFor small) = .ok (outs, t) :=
  ⟨by decide, by decide, by decide, _, _, rfl⟩
theorem witness_BadStreams :
    small.dMax < 12 ∧ [true].length % 7 ≠ 0 ∧ small.nMax < 16 ∧ [true] ≠ [] := by decide

end Sys2Proof.Tests
end

section
/-! The port at its two grains: what a transaction and a clock edge do in each case, that a response is a function of
the request alone, and that the edges of one request give the response of its transaction. -/

namespace Sys2Proof.Machine

/-! ### One equation per case of a transaction and of a clock edge -/

theorem step_of_accepting {s : State} (h : s.Accepting) : step s = perform s.reqHdr s := by
  obtain ⟨hr, hf, hv⟩ := s.accepting_iff.1 h
  simp [step, transact, hr, hf, hv]

theorem clkEdge_of_accepting_zero {s : State} (h : s.Accepting) (hl : latencyOf s.reqHdr = 0) :
    clkEdge s = perform s.reqHdr s := by
  obtain ⟨hr, hf, hv⟩ := s.accepting_iff.1 h
  simp [clkEdge, hr, hf, hv, hl]

theorem clkEdge_of_accepting_succ {s : State} {k : Nat} (h : s.Accepting) (hl : latencyOf s.reqHdr = k + 1) :
    clkEdge s = .next (s.accept k) := by
  obtain ⟨hr, hf, hv⟩ := s.accepting_iff.1 h
  simp [clkEdge, hr, hf, hv, hl]

theorem clkEdge_of_inFlight_zero {s : State} {r : Captured s.cfg.nMax} (hr : s.rst = false)
    (hf : s.inFlight = some r) (hl : r.left = 0) : clkEdge s = perform r.hdr s := by
  simp [clkEdge, hr, hf, hl]

theorem clkEdge_of_inFlight_succ {s : State} {r : Captured s.cfg.nMax} {k : Nat} (hr : s.rst = false)
    (hf : s.inFlight = some r) (hl : r.left = k + 1) : clkEdge s = .next (s.wait r k) := by
  simp [clkEdge, hr, hf, hl]

theorem State.reqReady_iff (s : State) : s.reqReady = true ↔ s.rst = false ∧ s.inFlight = none := by
  simp [State.reqReady]

theorem clkEdge_of_no_request {s : State} (h : s.reqReady = true) (hv : s.reqValid = false) :
    clkEdge s = .next s.idle := by
  obtain ⟨hr, hf⟩ := s.reqReady_iff.1 h
  simp [clkEdge, hr, hf, hv]

/-! ### Updates that keep the response, and the outputs of a state with a request in progress -/

@[simp] theorem State.drive_response (s : State) (p : Pins) : (s.drive p).response = s.response := rfl

@[simp] theorem State.idle_response (s : State) : s.idle.response = s.response := rfl

@[simp] theorem State.accept_response (s : State) (k : Nat) : (s.accept k).response = s.response := rfl

@[simp] theorem State.wait_response (s : State) (r : Captured s.cfg.nMax) (k : Nat) :
    (s.wait r k).response = s.response := rfl

theorem State.fail_response (s : State) (st : Status) :
    (s.fail st).response = (true, statusCode st, false, 0#16, 0#16, 0) := by
  simp [State.fail_eq_respond, State.respond_response, zext16]

/-- An edge of a ready block without a request keeps the response, leaves it ready and ends the done pulse (R61). -/
theorem clkEdge_no_request_keeps {s : State} (h : s.reqReady = true) (hv : s.reqValid = false) :
    ∃ v, clkEdge s = .next v ∧ v.response = s.response ∧ v.reqReady = true ∧ v.doneOut = false :=
  ⟨s.idle, clkEdge_of_no_request h hv, rfl, h, by simp [State.doneOut]⟩

/-! ### A response is a function of the request: header, build, operand wires below the length (R26, R41) -/

theorem State.withCodeword_response_congr {s₁ s₂ : State} {n : Nat} {go₁ go₂ : List Bool → State}
    (hc : s₁.cfg = s₂.cfg) (hop : s₁.operand n = s₂.operand n)
    (hgo : ∀ w, (go₁ w).response = (go₂ w).response) :
    (s₁.withCodeword n go₁).response = (s₂.withCodeword n go₂).response := by
  unfold State.withCodeword
  simp only [apply_ite State.response, State.fail_response, hgo, hop, hc]

/-- The build and the operand wires a request reads fix its response; nothing else of the state does. -/
theorem exec_response_congr {i : Instr} {s₁ s₂ t₁ t₂ : State} (hc : s₁.cfg = s₂.cfg)
    (hb : ∀ j, j < wiresRead i → s₁.operandBus.getLsbD j = s₂.operandBus.getLsbD j)
    (h₁ : exec i s₁ = .next t₁) (h₂ : exec i s₂ = .next t₂) : t₁.response = t₂.response := by
  have hop := State.operand_congr s₁ s₂ (wiresRead i) hb
  cases i with
  | pbn len | mdb len | ispar sel | cover len sel =>
    cases h₁
    cases h₂
    simp only [apply_ite State.response, State.fail_response, State.respond_response]
    rw [hc]
  | encode len =>
    cases h₁
    cases h₂
    simp only [apply_ite State.response, State.fail_response, State.respond_response]
    rw [wiresRead] at hop
    rw [hop, hc]
  | synd len | locate len | correct len | extract len | decode len ac =>
    cases h₁
    cases h₂
    refine State.withCodeword_response_congr hc hop fun w => ?_
    simp only [State.respond_response]
    rw [hc]

/-- Performed on two blocks of one build, a header and an operand give one response, reserved headers included. -/
theorem perform_response_congr {h : Header} {s₁ s₂ t₁ t₂ : State} (hc : s₁.cfg = s₂.cfg)
    (hb : s₁.operandBus.toNat = s₂.operandBus.toNat)
    (h₁ : perform h s₁ = .next t₁) (h₂ : perform h s₂ = .next t₂) : t₁.response = t₂.response := by
  unfold perform at h₁ h₂
  cases hd : decodeHeader h with
  | ok i =>
    rw [hd] at h₁ h₂
    exact exec_response_congr hc (fun j _ => by simp only [BitVec.getLsbD, hb]) h₁ h₂
  | error e =>
    rw [hd] at h₁ h₂
    cases h₁
    cases h₂
    simp only [State.fail_response]

/-- Performing a header completes, whatever it spells. -/
theorem perform_completes (h : Header) (s : State) : ∃ t, perform h s = .next t ∧ CompletedFrom s t := by
  obtain ⟨st, f, len, v, b, ht⟩ := perform_responds h s
  exact ⟨_, ht, s.respond_completed ..⟩

/-! ### The edges of one request -/

/-- The simulation relation between a state `s` that accepted a request and a state `m` of its clock edges: `m` holds
the request of `s` with `left` more edges to pass before the completing one, and still shows the response of `s`. -/
structure InProgress (s m : State) (left : Nat) : Prop where
  cfg : m.cfg = s.cfg
  response : m.response = s.response
  done : m.done = false
  captured : ∃ r, m.inFlight = some r ∧ r.hdr = s.reqHdr ∧ r.bits.toNat = s.reqBits.toNat ∧ r.left = left

theorem InProgress.accept (s : State) (k : Nat) : InProgress s (s.accept k) k :=
  ⟨rfl, rfl, rfl, _, rfl, rfl, rfl, rfl⟩

/-- What the wires carry does not matter to a request in progress (R206). -/
theorem InProgress.drive {s m : State} {left : Nat} (h : InProgress s m left) (p : Pins) :
    InProgress s (m.drive p) left :=
  ⟨h.cfg, h.response, h.done, h.captured⟩

theorem InProgress.outputs {s m : State} {left : Nat} (h : InProgress s m left) :
    m.reqReady = false ∧ m.doneOut = false := by
  obtain ⟨r, hf, -⟩ := h.captured
  simp [State.reqReady, State.doneOut, hf, h.done]

theorem InProgress.clkEdge_succ {s m : State} {left : Nat} (h : InProgress s m (left + 1)) (hr : m.rst = false) :
    ∃ m', clkEdge m = .next m' ∧ InProgress s m' left := by
  obtain ⟨r, hf, hh, hb, hl⟩ := h.captured
  exact ⟨m.wait r left, clkEdge_of_inFlight_succ hr hf hl, h.cfg, h.response, rfl, _, rfl, hh, hb, rfl⟩

/-- The completing edge gives the response of the transaction at the accepting state. -/
theorem InProgress.clkEdge_zero {s m u : State} (h : InProgress s m 0) (hr : m.rst = false) (ha : s.Accepting)
    (hu : step s = .next u) :
    ∃ t, clkEdge m = .next t ∧ t.response = u.response ∧ t.reqReady = true ∧ t.doneOut = true := by
  obtain ⟨-, hnone, -⟩ := s.accepting_iff.1 ha
  obtain ⟨r, hf, hh, hb, hl⟩ := h.captured
  obtain ⟨t, ht, -, hrst, -, -, -, hidle, hdone⟩ := perform_completes s.reqHdr m
  have hbus : m.operandBus.toNat = s.operandBus.toNat := by
    rw [State.operandBus_of_inFlight hf, State.operandBus_of_none hnone, hb]
  refine ⟨t, ?_, perform_response_congr h.cfg hbus ht (step_of_accepting ha ▸ hu), ?_, ?_⟩
  · rw [clkEdge_of_inFlight_zero hr hf hl, hh, ht]
  · exact t.reqReady_iff.2 ⟨hrst.trans hr, hidle⟩
  · simp [State.doneOut, hrst, hr, hdone]

/-- As long as no more edges pass than are left, whatever the wires carry, the request stays in progress. -/
theorem InProgress.runEdges_keeps {s m : State} {left : Nat} {ps : List Pins} (h : InProgress s m (left + ps.length))
    (hps : ∀ p ∈ ps, p.rst = false) : ∃ m', runEdges ps m = .next m' ∧ InProgress s m' left := by
  induction ps generalizing m with
  | nil => exact ⟨m, rfl, h⟩
  | cons p ps ih =>
    obtain ⟨hp, hps⟩ := List.forall_mem_cons.1 hps
    obtain ⟨m', hm', h'⟩ := (h.drive p).clkEdge_succ hp
    obtain ⟨m'', hm'', h''⟩ := ih h' hps
    exact ⟨m'', by simp only [runEdges, hm', hm''], h''⟩

/-- One edge more than `left` ends the run with the completing edge. -/
theorem InProgress.runEdges_completes {s m u : State} {left : Nat} {ps : List Pins} (h : InProgress s m left)
    (hlen : ps.length = left + 1) (hps : ∀ p ∈ ps, p.rst = false) (ha : s.Accepting) (hu : step s = .next u) :
    ∃ t, runEdges ps m = .next t ∧ t.response = u.response ∧ t.reqReady = true ∧ t.doneOut = true := by
  obtain ⟨qs, p, rfl⟩ := (List.eq_nil_or_concat ps).resolve_left (by rintro rfl; simp at hlen)
  rw [List.concat_eq_append] at hlen hps ⊢
  have hqs : qs.length = left := by simpa using hlen
  obtain ⟨m', hm', h'⟩ := InProgress.runEdges_keeps (left := 0) (ps := qs) (by simpa [hqs] using h)
    fun q hq => hps q (List.mem_append_left _ hq)
  obtain ⟨t, ht, hres⟩ := (h'.drive p).clkEdge_zero (hps p (by simp)) ha hu
  exact ⟨t, by simp only [runEdges_append hm', runEdges, ht], hres⟩

/-- A ready state stays ready when the host drives its wires with rst released. -/
theorem State.drive_reqReady {t : State} {p : Pins} (h : t.reqReady = true) (hp : p.rst = false) :
    (t.drive p).reqReady = true :=
  (t.drive p).reqReady_iff.2 ⟨hp, (t.reqReady_iff.1 h).2⟩

/-- Settles O33: `InProgress` holds after the accepting edge, every further edge keeps it, and the edge at which
nothing is left completes with the response of the transaction. -/
theorem clockEdgesCompleteAsTheTransaction : Obligations.ClockEdgesCompleteAsTheTransaction := by
  refine ⟨fun s ha => ⟨fun hl => ?_, fun k hl => ?_⟩, fun s => clkEdge_no_request_keeps⟩
  · rw [clkEdge_of_accepting_zero ha hl, step_of_accepting ha]
  · obtain ⟨u, hu, -⟩ := perform_completes s.reqHdr s
    rw [← step_of_accepting ha] at hu
    refine ⟨s.accept k, u, clkEdge_of_accepting_succ ha hl, hu, fun ps hlen hps => ?_, fun ps hlen hps => ?_⟩
    · obtain ⟨left, rfl⟩ := Nat.exists_eq_add_of_le' hlen
      obtain ⟨m, hm, h⟩ := (InProgress.accept s _).runEdges_keeps hps
      exact ⟨m, hm, h.response, h.outputs⟩
    · obtain ⟨t, ht, hres, hready, hdone⟩ := (InProgress.accept s k).runEdges_completes hlen hps ha hu
      refine ⟨t, ht, hres, hready, hdone, fun p hp hv => ?_⟩
      rw [← hres]
      exact clkEdge_no_request_keeps (State.drive_reqReady hready hp) hv

/-! ### The frame of a request, the reset state -/

/-- Settles O18: every request is one write of the response registers. -/
theorem requestsChangeOnlyTheResponse : Obligations.RequestsChangeOnlyTheResponse := by
  intro i s t h
  obtain ⟨st, f, len, v, b, hi⟩ := exec_responds i s
  obtain rfl : s.respond st f len v b = t := Host.Outcome.next.inj (hi.symm.trans h)
  exact ⟨rfl, s.respond_completed ..⟩

theorem nMax_reference : Config.reference.nMax = 265 := by decide

/-- Settles O31: the reset values are written out in `State.resetFor`; N_MAX of the reference build is computed. -/
theorem resetStateHoldsTheResetValues : Obligations.ResetStateHoldsTheResetValues := by
  refine ⟨fun c => ⟨?_, rfl, rfl, rfl⟩, rfl, rfl, nMax_reference⟩
  simp [State.response, State.resetFor, resetResponse]

end Sys2Proof.Machine
end

section
/-! The response registers: what a request can write into them, that every step and every clock edge keeps them well
formed, what sets RSP_VALID and RSP_FLIPPED, and that the blocks of a system share nothing. -/

namespace Sys2Proof.Machine

/-! ### The parity count is enough, and grows with the data length (R90) -/

theorem le_pbnFrom {fuel k d : Nat} (h : d ≤ 2 ^ (k + fuel) - (k + fuel) - 1) :
    d ≤ 2 ^ pbnFrom fuel k d - pbnFrom fuel k d - 1 := by
  induction fuel generalizing k with
  | zero => simpa [pbnFrom] using h
  | succ fuel ih =>
    rw [pbnFrom]
    split
    · exact ih (by rwa [Nat.add_right_comm])
    · omega

/-- pbn(d) parity bits suffice for d data bits. -/
theorem le_pbn (d : Nat) : d ≤ 2 ^ pbn d - pbn d - 1 := by
  have hd : d < 2 ^ d := Nat.lt_two_pow_self
  have hfuel : 2 ^ (0 + (d + 1)) = 2 * 2 ^ d := by rw [Nat.zero_add, Nat.pow_succ']
  exact le_pbnFrom (by omega)

theorem pbn_mono {d d' : Nat} (h : d ≤ d') : pbn d ≤ pbn d' := pbn_le (h.trans (le_pbn d'))

/-- A codeword of a data block that the build admits fits the bus (R6). -/
theorem codeword_length_le_nMax {c : Cfg} {d : Nat} (h : d ≤ c.dMax) : d + pbn d ≤ c.nMax :=
  Nat.add_le_add h (pbn_mono h)

theorem ext_length_le (w : List Bool) : (ext w).length ≤ w.length := by
  rw [ext_length, dataPositions]
  exact (List.length_filter_le _ _).trans_eq List.length_range

/-! ### What a request can write (R13, R41, R142, R152, R170, R172) -/

theorem statusCode_le_four (st : Status) : (statusCode st).toNat ≤ 4 := by
  cases st <;> decide

/-- The status of a request that did not fail. -/
def Status.Success (st : Status) : Prop := st = .none ∨ st = .located ∨ st = .outOfRange

theorem Status.Success.code_ne {st : Status} (h : st.Success) :
    ¬ (statusCode st = 0b011#3 ∨ statusCode st = 0b100#3) := by
  obtain rfl | rfl | rfl := h <;> decide

theorem statusOf_success (S n : Nat) : (statusOf S n).Success := by
  unfold statusOf
  split
  · exact .inl rfl
  · split
    · exact .inr (.inl rfl)
    · exact .inr (.inr rfl)

/-- `corr` flips a bit only where the syndrome names a position of the word (R140). -/
theorem statusOf_of_corr_flips {w : List Bool} (h : (corr w).2 = true) :
    statusOf (synd w) w.length = .located := by
  by_cases h0 : synd w = 0
  · simp [corr, h0] at h
  · by_cases hn : synd w ≤ w.length
    · rw [statusOf, if_neg h0, if_pos hn]
    · simp [corr, h0, Nat.lt_of_not_le hn] at h

/-- What a request can leave: it fails with INVALID_INPUT, or it responds with no failure status, a length within the
bus, no bit from that length on, and a flip only where a correcting request located one. -/
inductive AnswerShape (i : Instr) (s : State) : State → Prop
  | fails : AnswerShape i s (s.fail .invalidInput)
  | responds {st : Status} {f : Bool} {len : Nat} (v : Nat) {b : BitVec s.cfg.nMax} (status : st.Success)
      (flip : f = true → st = .located ∧ ∃ n, i = .correct n ∨ i = .decode n true)
      (length : len ≤ s.cfg.nMax) (clear : ∀ j, len ≤ j → b.getLsbD j = false) :
      AnswerShape i s (s.respond st f len v b)

namespace AnswerShape

variable {i : Instr} {s : State} {st : Status}

/-- An answer by a number alone. -/
theorem number (v : Nat) (status : st.Success) : AnswerShape i s (s.respond st false 0 v 0#s.cfg.nMax) :=
  .responds v status nofun (Nat.zero_le _) fun _ _ => BitVec.getLsbD_zero

/-- An answer by a sequence that fits the bus. -/
theorem sequence {f : Bool} {l : List Bool} {len : Nat} (v : Nat) (status : st.Success)
    (flip : f = true → st = .located ∧ ∃ n, i = .correct n ∨ i = .decode n true)
    (hl : l.length = len) (length : len ≤ s.cfg.nMax) :
    AnswerShape i s (s.respond st f len v (packBits s.cfg.nMax l)) := by
  refine .responds v status flip length fun j hj => ?_
  rw [packBits_getLsbD, List.getD_eq_default _ _ (hl.trans_le hj), Bool.and_false]

theorem withCodeword {n : Nat} {go : List Bool → State}
    (h : ∀ w, w.length = n → n ≤ s.cfg.nMax → AnswerShape i s (go w)) :
    AnswerShape i s (s.withCodeword n go) := by
  obtain ⟨-, hw⟩ | ⟨⟨-, hn⟩, hw⟩ := s.withCodeword_cases n go
  · exact hw ▸ .fails
  · exact hw ▸ h _ (s.operand_length n) hn

end AnswerShape

theorem exec_answerShape {i : Instr} {s t : State} (h : exec i s = .next t) : AnswerShape i s t := by
  cases i with
  | pbn len | ispar sel => cases h; exact .number _ (.inl rfl)
  | mdb len =>
    cases h
    split
    · exact .fails
    · exact .number _ (.inl rfl)
  | cover len sel =>
    cases h
    split
    · exact .fails
    · split
      · exact .fails
      · refine .responds _ (.inl rfl) nofun (by omega) fun j hj => ?_
        have hnot : j ∉ cov len.toNat sel.toNat := fun hm => absurd (mem_cov.1 hm).1 (Nat.not_lt.2 hj)
        simp [maskOf_getLsbD, hnot]
  | encode len =>
    cases h
    split
    · exact .fails
    · rename_i hd
      have hfit := codeword_length_le_nMax (Nat.le_of_not_gt hd)
      exact .sequence _ (.inl rfl) nofun rfl (by simpa using hfit)
  | synd len | locate len =>
    cases h
    exact .withCodeword fun w _ _ => .number _ (statusOf_success ..)
  | correct len =>
    cases h
    refine .withCodeword fun w hw hn => .sequence _ (statusOf_success ..) (fun hf => ?_) (by simp [hw]) hn
    exact ⟨hw ▸ statusOf_of_corr_flips hf, len, .inl rfl⟩
  | extract len =>
    cases h
    exact .withCodeword fun w hw hn =>
      .sequence _ (.inl rfl) nofun rfl ((ext_length_le w).trans (hw.trans_le hn))
  | decode len ac =>
    cases h
    refine .withCodeword fun w hw hn => ?_
    cases ac with
    | false => exact .sequence _ (statusOf_success ..) nofun rfl ((ext_length_le w).trans (hw.trans_le hn))
    | true =>
      have hfit : (ext (corr w).1).length ≤ s.cfg.nMax := (ext_length_le _).trans (by rw [corr_length, hw]; exact hn)
      refine .sequence _ (statusOf_success ..) (fun hf => ?_) rfl hfit
      exact ⟨hw ▸ statusOf_of_corr_flips hf, len, .inr rfl⟩

/-! ### The invariant of the response registers -/

theorem State.fail_responseOk (s : State) (st : Status) : (s.fail st).ResponseOk :=
  ⟨statusCode_le_four st, fun _ _ => BitVec.getLsbD_zero, Nat.zero_le _, nofun, fun _ => ⟨rfl, rfl, rfl, by simp [State.fail]⟩, nofun⟩

theorem AnswerShape.responseOk {i : Instr} {s t : State} (h : AnswerShape i s t) : t.ResponseOk := by
  cases h with
  | fails => exact s.fail_responseOk _
  | @responds st f len v b status flip length clear =>
    have hlen : (zext16 len).toNat = len := by
      have := nMax_le s.cfg
      exact Nat.mod_eq_of_lt (by omega)
    refine ⟨statusCode_le_four st, fun j hj => clear j (hlen ▸ hj), hlen.trans_le length, fun hf => ?_,
      fun hfail => absurd hfail status.code_ne, nofun⟩
    rw [State.respond_rspStatus, (flip hf).1]
    rfl

theorem perform_responseOk {h : Header} {s t : State} (ht : perform h s = .next t) : t.ResponseOk := by
  unfold perform at ht
  cases hd : decodeHeader h with
  | ok i => exact (exec_answerShape (by simpa only [hd] using ht)).responseOk
  | error e =>
    simp only [hd] at ht
    cases ht
    exact s.fail_responseOk _

/-- The reset values meet the invariant; an edge with rst = 1 writes the same ones. -/
theorem State.resetEdge_responseOk (s : State) : s.resetEdge.ResponseOk := by
  refine ⟨by simp, fun _ _ => BitVec.getLsbD_zero, Nat.zero_le _, nofun, fun _ => ⟨rfl, rfl, rfl, by simp⟩, fun _ => ?_⟩
  simp [State.response, resetResponse]

/-- Settles O24: the reset state is what a reset edge leaves of it. -/
theorem resetResponseIsWellFormed : Obligations.ResetResponseIsWellFormed := fun c =>
  (State.resetFor c).resetEdge_responseOk

theorem step_responseOk {s t : State} (hs : s.ResponseOk) (h : step s = .next t) : t.ResponseOk := by
  obtain ⟨-, hstep⟩ | ⟨-, r, -, hstep⟩ | ⟨-, -, -, hstep⟩ | ⟨-, -, -, hstep⟩ := step_cases s <;> rw [hstep] at h
  · cases h; exact s.resetEdge_responseOk
  · exact perform_responseOk h
  · exact perform_responseOk h
  · cases h; exact hs

theorem clkEdge_responseOk {s t : State} (hs : s.ResponseOk) (h : clkEdge s = .next t) : t.ResponseOk := by
  obtain ⟨-, hedge⟩ | ⟨-, r, -, ⟨-, hedge⟩ | ⟨k, -, hedge⟩⟩ | ⟨-, -, -, ⟨-, hedge⟩ | ⟨k, -, hedge⟩⟩ |
    ⟨-, -, -, hedge⟩ := clkEdge_cases s <;> rw [hedge] at h
  case inl => cases h; exact s.resetEdge_responseOk
  · exact perform_responseOk h
  · cases h; exact hs
  · exact perform_responseOk h
  · cases h; exact hs
  · cases h; exact hs

/-- Settles O23: reset and every request write a well-formed response, every other step or edge keeps it. -/
theorem stepsKeepTheResponseWellFormed : Obligations.StepsKeepTheResponseWellFormed := by
  rintro s t hs (h | h)
  · exact step_responseOk hs h
  · exact clkEdge_responseOk hs h

/-! ### Who sets RSP_FLIPPED and RSP_VALID; noninterference -/

/-- Settles O21, from the shape of an answer. -/
theorem onlyCorrectionsSetFlipped : Obligations.OnlyCorrectionsSetFlipped := by
  intro i s t h hflip
  cases exec_answerShape h with
  | fails => cases hflip
  | responds v status flip length clear =>
    obtain ⟨rfl, hi⟩ := flip hflip
    exact ⟨hi, rfl⟩

theorem perform_rspValid {h : Header} {s t : State} (ht : perform h s = .next t) : t.rspValid = true := by
  obtain ⟨st, f, len, v, b, hp⟩ := perform_responds h s
  cases hp.symm.trans ht
  rfl

/-- Settles O26: of the cases of a step, the performing ones write RSP_VALID 1, reset clears it, the idle one keeps it. -/
theorem onlyResetClearsValid : Obligations.OnlyResetClearsValid := by
  intro s t h
  obtain ⟨hr, hstep⟩ | ⟨hr, r, hf, hstep⟩ | ⟨hr, hf, hv, hstep⟩ | ⟨hr, hf, hv, hstep⟩ := step_cases s <;>
    rw [hstep] at h
  · cases h; simp [hr]
  · simp [hr, hf, perform_rspValid h]
  · simp [hr, hf, hv, perform_rspValid h]
  · cases h; simp [hr, hf, hv]

theorem State.operandBus_of_accepting {s : State} (h : s.Accepting) : s.operandBus = s.reqBits := by
  obtain ⟨-, hf, -⟩ := s.accepting_iff.1 h
  exact State.operandBus_of_none hf

/-- Settles O27: both blocks perform one header on one operand. -/
theorem responseDependsOnTheRequestAlone : Obligations.ResponseDependsOnTheRequestAlone := by
  intro s₁ s₂ hc h₁ h₂ hh hb
  obtain ⟨t₁, ht₁, -⟩ := perform_completes s₁.reqHdr s₁
  obtain ⟨t₂, ht₂, -⟩ := perform_completes s₁.reqHdr s₂
  have hbus : s₁.operandBus.toNat = s₂.operandBus.toNat := by
    rw [State.operandBus_of_accepting h₁, State.operandBus_of_accepting h₂, hb]
  refine ⟨t₁, t₂, ?_, ?_, perform_response_congr hc hbus ht₁ ht₂⟩
  · rw [step_of_accepting h₁, ht₁]
  · rw [step_of_accepting h₂, ← hh, ht₂]

/-! ### Systems of several blocks -/

theorem step_completes (s : State) : ∃ t, step s = .next t := by
  obtain ⟨-, h⟩ | ⟨-, r, -, h⟩ | ⟨-, -, -, h⟩ | ⟨-, -, -, h⟩ := step_cases s
  · exact ⟨_, h⟩
  · exact h ▸ (perform_completes r.hdr s).imp fun _ => And.left
  · exact h ▸ (perform_completes s.reqHdr s).imp fun _ => And.left
  · exact ⟨_, h⟩

/-- A transaction at place k replaces the state there by what its own step gives. -/
theorem stepInstance_eq_set {sys : List State} {k : Nat} {s t : State} (hs : sys[k]? = some s) (ht : step s = .next t) :
    stepInstance k sys = .next (sys.set k t) := by
  simp only [stepInstance, hs, ht]

/-- Settles O56: `stepInstance` is a `List.set` at its place, and sets at different places commute. -/
theorem instancesAreIndependent : Obligations.InstancesAreIndependent := by
  refine ⟨fun sys k hk => ?_, fun sys j k hjk hj hk => ?_⟩
  · obtain ⟨t, ht⟩ := step_completes sys[k]
    have hs : sys[k]? = some sys[k] := List.getElem?_eq_getElem hk
    exact ⟨_, stepInstance_eq_set hs ht, List.length_set, fun j hj => List.getElem?_set_ne hj.symm,
      _, t, hs, ht, List.getElem?_set_self hk⟩
  · obtain ⟨t, ht⟩ := step_completes sys[j]
    obtain ⟨u, hu⟩ := step_completes sys[k]
    have hsj : sys[j]? = some sys[j] := List.getElem?_eq_getElem hj
    have hsk : sys[k]? = some sys[k] := List.getElem?_eq_getElem hk
    refine ⟨_, _, _, stepInstance_eq_set hsj ht, stepInstance_eq_set (t := u) ?_ hu, stepInstance_eq_set hsk hu, ?_⟩
    · rw [List.getElem?_set_ne hjk, hsk]
    · rw [List.set_comm _ _ hjk]
      exact stepInstance_eq_set (by rw [List.getElem?_set_ne hjk.symm, hsj]) ht

end Sys2Proof.Machine
end

section
/-! What a host sees of the responses (20_memory.md R41, R42): any request leaves them well formed, they do not depend on
wires above the length, a request issued again answers the same, and the blocks of a stream answer the same wherever
they are performed and in whatever order they complete (R45, R187). -/

namespace Sys2Proof.Machine

/-! ### The wires above the length (R41) -/

/-- Settles O25: every answer of a request has the shape that the invariant asks for. -/
theorem anyRequestLeavesAWellFormedResponse : Obligations.AnyRequestLeavesAWellFormedResponse :=
  fun _ _ _ h => (exec_answerShape h).responseOk

theorem State.ResponseOk.bits_clear {s : State} (h : s.ResponseOk) :
    ∀ j, s.rspLen.toNat ≤ j → s.rspBits.getLsbD j = false := by
  obtain ⟨-, hclear, -⟩ := h
  exact hclear

theorem exec_completes (i : Instr) (s : State) : ∃ t, exec i s = .next t := by
  obtain ⟨st, f, len, v, b, h⟩ := exec_responds i s
  exact ⟨_, h⟩

/-- Settles O28: a response is a function of the wires the request reads, and it is well formed. -/
theorem wiresAboveTheLengthDoNotMatter : Obligations.WiresAboveTheLengthDoNotMatter := by
  intro i s₁ s₂ hc hb
  obtain ⟨t₁, h₁⟩ := exec_completes i s₁
  obtain ⟨t₂, h₂⟩ := exec_completes i s₂
  exact ⟨t₁, t₂, h₁, h₂, exec_response_congr hc hb h₁ h₂, (exec_answerShape h₁).responseOk.bits_clear⟩

/-! ### A request issued again (R42, R207) -/

theorem step_of_no_request {s : State} (hr : s.rst = false) (hf : s.inFlight = none) (hv : s.reqValid = false) :
    step s = .next s.idle := by
  simp [step, transact, hr, hf, hv]

/-- A step that performs a request leaves everything but the response registers and the port's outputs as it was. -/
theorem step_completedFrom {s t : State} (ha : s.Accepting) (h : step s = .next t) : CompletedFrom s t := by
  obtain ⟨t', ht', hframe⟩ := perform_completes s.reqHdr s
  rw [step_of_accepting ha, ht'] at h
  cases h
  exact hframe

/-- The same header and operand on the port of any block of the build answer the same. -/
theorem step_response_again {s s' t : State} (ha : s.Accepting) (ht : step s = .next t) (ha' : s'.Accepting)
    (hc : s'.cfg = s.cfg) (hh : s'.reqHdr = s.reqHdr) (hb : s'.reqBits.toNat = s.reqBits.toNat) :
    ∃ u, step s' = .next u ∧ u.response = t.response := by
  obtain ⟨t₁, u, h₁, hu, hres⟩ := responseDependsOnTheRequestAlone s s' hc.symm ha ha' hh.symm hb.symm
  cases h₁.symm.trans ht
  exact ⟨u, hu, hres.symm⟩

/-- Transactions without a request keep the response, the build and a block that is ready. -/
theorem runTransactions_no_request {gap : List Pins} {t : State} (hf : t.inFlight = none)
    (hgap : ∀ p ∈ gap, p.rst = false ∧ p.reqValid = false) :
    ∃ v, runTransactions gap t = .next v ∧ v.response = t.response ∧ v.cfg = t.cfg ∧ v.inFlight = none := by
  induction gap generalizing t with
  | nil => exact ⟨t, rfl, rfl, rfl, hf⟩
  | cons p gap ih =>
    obtain ⟨⟨hr, hv⟩, hgap⟩ := List.forall_mem_cons.1 hgap
    have hidle : transact (t.drive p) = .next (t.drive p).idle := step_of_no_request hr hf hv
    obtain ⟨v, hrun, hkeeps⟩ := ih (t := (t.drive p).idle) hf hgap
    exact ⟨v, by simp only [runTransactions, hidle, hrun], hkeeps⟩

theorem packBits_toNat_congr {m n : Nat} (h : m = n) (l : List Bool) : (packBits m l).toNat = (packBits n l).toNat := by
  rw [h]

/-- Settles O29: the wires are as they were after the request, steps without one keep the response, and the request on
the port again answers as it did. -/
theorem requestsAreIdempotent : Obligations.RequestsAreIdempotent := by
  intro s t ha ht
  obtain ⟨hr, -, hv⟩ := s.accepting_iff.1 ha
  obtain ⟨hcfg, hrst, hvalid, hhdr, hbits, hidle, -⟩ := step_completedFrom ha ht
  refine ⟨?_, fun p hpr hpv => ?_, fun gap hgap => ?_⟩
  · have ha' : t.Accepting := t.accepting_iff.2 ⟨hrst.trans hr, hidle, hvalid.trans hv⟩
    exact step_response_again ha ht ha' hcfg hhdr hbits
  · exact ⟨(t.drive p).idle, step_of_no_request hpr hidle hpv, rfl, by simp [State.doneOut]⟩
  · obtain ⟨v, hrun, hres, hvcfg, hvidle⟩ := runTransactions_no_request hidle hgap
    refine ⟨v, hrun, hres, fun q hqr hqv hqh hqb => ?_⟩
    have ha' : (v.drive q).Accepting := (v.drive q).accepting_iff.2 ⟨hqr, hvidle, hqv⟩
    have hc : v.cfg = s.cfg := hvcfg.trans hcfg
    have hb : (packBits v.cfg.nMax q.bits).toNat = s.reqBits.toNat := by
      rw [packBits_toNat_congr (congrArg Cfg.nMax hc), hqb]
    exact step_response_again ha ht ha' hc hqh hb

/-! ### One block of a stream (R44, R186, R189) -/

/-- The wires as a host drives them to raise a request. -/
def requestPins (q : Request) : Pins := ⟨false, true, q.hdr, q.bits⟩

theorem hostRequest_of_none {q : Request} {s : State} (hf : s.inFlight = none) :
    hostRequest q s = step (s.drive (requestPins q)) := by
  simp only [hostRequest, State.drive_inFlight, hf, requestPins]

theorem hostRequest_of_inFlight {q : Request} {s t : State} {r : Captured s.cfg.nMax} (hf : s.inFlight = some r)
    (ht : step (s.drive (requestPins q)) = .next t) : hostRequest q s = step t := by
  rw [requestPins] at ht
  simp only [hostRequest, State.drive_inFlight, hf, ht]

theorem step_of_inFlight {s : State} {r : Captured s.cfg.nMax} (hr : s.rst = false) (hf : s.inFlight = some r) :
    step s = perform r.hdr s := by
  simp [step, transact, hr, hf]

/-- A host's request ends in the step of an accepting block with that request on its port, at once or after a request
still in progress. -/
theorem hostRequest_accepted (q : Request) (s : State) :
    ∃ a, hostRequest q s = step a ∧ a.Accepting ∧ a.cfg = s.cfg ∧ a.reqHdr = q.hdr ∧
      a.reqBits.toNat = (packBits s.cfg.nMax q.bits).toNat := by
  cases hf : s.inFlight with
  | none =>
    exact ⟨_, hostRequest_of_none hf, (State.accepting_iff _).2 ⟨rfl, hf, rfl⟩, rfl, rfl, rfl⟩
  | some r =>
    obtain ⟨a, ha, hcfg, hrst, hvalid, hhdr, hbits, hidle, -⟩ := perform_completes r.hdr (s.drive (requestPins q))
    have hstep := (step_of_inFlight (s := s.drive (requestPins q)) rfl hf).trans ha
    exact ⟨a, hostRequest_of_inFlight hf hstep, a.accepting_iff.2 ⟨hrst, hidle, hvalid⟩, hcfg, hhdr, hbits⟩

/-- Issued to two blocks of one build, whatever their states, a host's request gives one response. -/
theorem hostRequest_response_congr (q : Request) {s₁ s₂ : State} (hc : s₁.cfg = s₂.cfg) :
    ∃ t₁ t₂, hostRequest q s₁ = .next t₁ ∧ hostRequest q s₂ = .next t₂ ∧ t₁.response = t₂.response ∧
      t₁.cfg = s₁.cfg ∧ t₂.cfg = s₂.cfg := by
  obtain ⟨a₁, hq₁, ha₁, hc₁, hh₁, hb₁⟩ := hostRequest_accepted q s₁
  obtain ⟨a₂, hq₂, ha₂, hc₂, hh₂, hb₂⟩ := hostRequest_accepted q s₂
  have hbits : a₁.reqBits.toNat = a₂.reqBits.toNat := by
    rw [hb₁, hb₂, packBits_toNat_congr (congrArg Cfg.nMax hc)]
  obtain ⟨t₁, t₂, ht₁, ht₂, hres⟩ := responseDependsOnTheRequestAlone a₁ a₂
    (hc₁.trans (hc.trans hc₂.symm)) ha₁ ha₂ (hh₁.trans hh₂.symm) hbits
  obtain ⟨hk₁, -⟩ := step_completedFrom ha₁ ht₁
  obtain ⟨hk₂, -⟩ := step_completedFrom ha₂ ht₂
  exact ⟨t₁, t₂, hq₁.trans ht₁, hq₂.trans ht₂, hres, hk₁.trans hc₁, hk₂.trans hc₂⟩

/-- A host reads the status and the result bits off the response registers alone. -/
theorem State.reads_of_response {t₁ t₂ : State} (h : t₁.response = t₂.response) :
    t₁.readStatus = t₂.readStatus ∧ t₁.resultBits = t₂.resultBits := by
  simp only [State.response, Prod.mk.injEq] at h
  obtain ⟨-, hstatus, -, hlen, -, hbits⟩ := h
  have hwires : t₁.rspBits.getLsbD = t₂.rspBits.getLsbD := funext fun j => by simp only [BitVec.getLsbD, hbits]
  exact ⟨by simp only [State.readStatus, hstatus], by simp only [State.resultBits, takeBits, hlen, hwires]⟩

/-- A block of a stream gives output exactly when its request does not fail: the result bits it leaves. -/
theorem runBlock_eq_ok_iff {q : Request} {s t u : State} {out : List Bool} (h : hostRequest q s = .next t) :
    runBlock q s = .ok (out, u) ↔
      (∃ st, t.readStatus = .ok st ∧ st.Success) ∧ t.resultBits = out ∧ t = u := by
  unfold runBlock
  cases hread : t.readStatus with
  | error e => simp [h, hread]
  | ok st => cases st <;> simp [h, hread, Status.Success]

/-- Every block of build c gives this output for the request, whatever its state, and stays of that build. -/
def BlockGives (c : Cfg) (q : Request) (out : List Bool) : Prop :=
  ∀ s : State, s.cfg = c → ∃ t, runBlock q s = .ok (out, t) ∧ t.cfg = c

/-- What one block gives, every block of its build gives. -/
theorem blockGives_of_runBlock {q : Request} {s t : State} {out : List Bool} (h : runBlock q s = .ok (out, t)) :
    BlockGives s.cfg q out := by
  intro s' hc
  obtain ⟨t₁, t₂, h₁, h₂, hres, -, hcfg⟩ := hostRequest_response_congr q hc.symm
  obtain ⟨hread, hbits⟩ := State.reads_of_response hres
  obtain ⟨hok, hout, -⟩ := (runBlock_eq_ok_iff h₁).1 h
  exact ⟨t₂, (runBlock_eq_ok_iff h₂).2 ⟨hread ▸ hok, hbits ▸ hout, rfl⟩, hcfg.trans hc⟩

/-! ### The blocks of a stream, in order and spread (R45, R180, R187) -/

theorem runBlocks_gives {qs : List Request} {s t : State} {outs : List (List Bool)}
    (h : runBlocks qs s = .ok (outs, t)) : List.Forall₂ (BlockGives s.cfg) qs outs := by
  induction qs generalizing s outs with
  | nil => cases h; exact .nil
  | cons q qs ih =>
    rw [runBlocks] at h
    cases hq : runBlock q s with
    | error e => simp [hq] at h
    | ok first =>
      obtain ⟨out, u⟩ := first
      cases hqs : runBlocks qs u with
      | error e => simp [hq, hqs] at h
      | ok others =>
        simp only [hq, hqs] at h
        cases h
        have hgives := blockGives_of_runBlock hq
        obtain ⟨u', hu', hcfg⟩ := hgives s rfl
        cases hu'.symm.trans hq
        exact .cons hgives (hcfg ▸ ih hqs)

/-- On any system of one build, a schedule of known blocks gives each the output that any block of the build gives. -/
theorem runSchedule_gives {c : Cfg} {qs : List Request} {f : Nat → List Bool} {schedule : List (Nat × Nat)}
    {sys : List State} (hgives : ∀ j q, qs[j]? = some q → BlockGives c q (f j)) (hsys : ∀ x ∈ sys, x.cfg = c)
    (hj : ∀ j ∈ schedule.map Prod.fst, j < qs.length) (hk : ∀ jk ∈ schedule, jk.2 < sys.length) :
    runSchedule qs schedule sys = .ok ((schedule.map Prod.fst).map fun j => (j, f j)) := by
  induction schedule generalizing sys with
  | nil => rfl
  | cons jk rest ih =>
    obtain ⟨j, k⟩ := jk
    obtain ⟨hj, hjs⟩ := List.forall_mem_cons.1 hj
    obtain ⟨hk, hks⟩ := List.forall_mem_cons.1 hk
    have hq : qs[j]? = some qs[j] := List.getElem?_eq_getElem hj
    have hs : sys[k]? = some sys[k] := List.getElem?_eq_getElem hk
    obtain ⟨t, ht, hcfg⟩ := hgives j _ hq _ (hsys _ (List.getElem_mem hk))
    have hrest := ih (sys := sys.set k t)
      (fun x hx => (List.mem_or_eq_of_mem_set hx).elim (hsys x) fun h => h ▸ hcfg) hjs (by simpa using hks)
    simp only [runSchedule, hq, hs, ht, hrest, List.map_cons]

theorem mapM_eq_some_map {α β : Type} {g : α → Option β} {f : α → β} {l : List α} (h : ∀ a ∈ l, g a = some (f a)) :
    l.mapM g = some (l.map f) := by
  induction l with
  | nil => rfl
  | cons a l ih =>
    obtain ⟨ha, hl⟩ := List.forall_mem_cons.1 h
    simp [List.mapM_cons, ha, ih hl]

/-- Results tagged with their blocks come back in input order, whatever order they stand in. -/
theorem reassemble_graph {m : Nat} {js : List Nat} (f : Nat → List Bool) (h : ∀ j < m, j ∈ js) :
    reassemble m (js.map fun j => (j, f j)) = .ok ((List.range m).map f).flatten := by
  have hlookup : ∀ j ∈ List.range m, (js.map fun j => (j, f j)).lookup j = some (f j) :=
    fun j hj => List.lookup_graph f (h j (List.mem_range.1 hj))
  rw [reassemble, mapM_eq_some_map hlookup]

theorem map_range_getD (l : List (List Bool)) : (List.range l.length).map (fun j => l.getD j []) = l :=
  List.ext_getElem (by simp) fun j _ hj => by simp [hj]

/-- Settles O59: each block of the stream gives one output on every block of the build, so the schedule collects the
outputs of the run in order, and reassembly puts them back in that order. -/
theorem spreadStreamKeepsInputOrder : Obligations.SpreadStreamKeepsInputOrder := by
  intro c sys schedule qs s t outs hsys hs hk hperm hrun
  subst hs
  have hall := runBlocks_gives hrun
  obtain ⟨hlen, hget⟩ := List.forall₂_iff_get.1 hall
  have hgives : ∀ j q, qs[j]? = some q → BlockGives s.cfg q (outs.getD j []) := by
    intro j q hq
    obtain ⟨hj, rfl⟩ := List.getElem?_eq_some_iff.1 hq
    rw [List.getD_eq_getElem _ _ (hlen ▸ hj)]
    exact hget j hj (hlen ▸ hj)
  have hmem : ∀ j, j ∈ schedule.map Prod.fst ↔ j < qs.length := fun j => hperm.mem_iff.trans List.mem_range
  rw [runSpread, runSchedule_gives hgives hsys (fun j => (hmem j).1) hk]
  refine (reassemble_graph _ fun j => (hmem j).2).trans ?_
  rw [hlen, map_range_getD]

end Sys2Proof.Machine
end

section
/-! The encoding (30_encoding.md): a header word and a response word as numbers, what a header decodes to, what an
assembler writes for a line, and what a step does with the request that a header spells. -/

namespace Sys2Proof.Machine

/-! ### A word packed from shifted fields, as a number (R60, R66) -/

/-- A field shifted above all the bits of y adds to y. -/
theorem or_shifted_toNat {w n k : Nat} (x : BitVec w) (y : BitVec n) (hx : w + k ≤ n) (hy : y.toNat < 2 ^ k) :
    (x.setWidth n <<< k ||| y).toNat = x.toNat * 2 ^ k + y.toNat := by
  have hw : x.toNat < 2 ^ n := x.isLt.trans_le (Nat.pow_le_pow_right Nat.two_pos (by omega))
  have hfit : x.toNat * 2 ^ k < 2 ^ n := by
    calc x.toNat * 2 ^ k < 2 ^ w * 2 ^ k := Nat.mul_lt_mul_of_pos_right x.isLt (Nat.two_pow_pos k)
      _ = 2 ^ (w + k) := (Nat.pow_add ..).symm
      _ ≤ 2 ^ n := Nat.pow_le_pow_right Nat.two_pos hx
  rw [BitVec.toNat_or, BitVec.toNat_shiftLeft, BitVec.toNat_setWidth, Nat.mod_eq_of_lt hw, Nat.shiftLeft_eq,
    Nat.mod_eq_of_lt hfit, ← Nat.shiftLeft_eq, Nat.shiftLeft_add_eq_or_of_lt hy]

theorem packHeader_toNat (sel len : Word) (ac : Bool) (op : BitVec 4) :
    (packHeader sel len ac op).toNat = sel.toNat * 2 ^ 24 + len.toNat * 2 ^ 8 + ac.toNat * 2 ^ 4 + op.toNat := by
  have hop : (op.setWidth 40).toNat = op.toNat := BitVec.toNat_setWidth_of_le (by decide)
  have hac := or_shifted_toNat (k := 4) (BitVec.ofBool ac) (op.setWidth 40) (by decide) (by omega)
  have hlen := or_shifted_toNat (k := 8) len _ (by decide) (hac.trans_lt (by omega))
  have hsel := or_shifted_toNat (k := 24) sel _ (by decide) (hlen.trans_lt (by omega))
  rw [packHeader, BitVec.or_assoc, BitVec.or_assoc, hsel, hlen, hac, hop, BitVec.toNat_ofBool]
  omega

theorem State.rspWord_toNat (s : State) : s.rspWord.toNat =
    s.rspValue.toNat * 2 ^ 20 + s.rspLen.toNat * 2 ^ 4 + s.rspFlipped.toNat * 2 ^ 3 + s.rspStatus.toNat := by
  have hst : (s.rspStatus.setWidth 36).toNat = s.rspStatus.toNat := BitVec.toNat_setWidth_of_le (by decide)
  have hfl := or_shifted_toNat (k := 3) (BitVec.ofBool s.rspFlipped) (s.rspStatus.setWidth 36) (by decide) (by omega)
  have hlen := or_shifted_toNat (k := 4) s.rspLen _ (by decide) (hfl.trans_lt (by omega))
  have hval := or_shifted_toNat (k := 20) s.rspValue _ (by decide) (hlen.trans_lt (by omega))
  rw [State.rspWord, BitVec.or_assoc, BitVec.or_assoc, hval, hlen, hfl, hst, BitVec.toNat_ofBool]
  omega

/-- A field of a word is read off the word's number. -/
theorem extractLsb'_eq_of_toNat {n k w : Nat} {x : BitVec n} {y : BitVec w} (h : x.toNat / 2 ^ k % 2 ^ w = y.toNat) :
    x.extractLsb' k w = y :=
  BitVec.eq_of_toNat_eq (by rw [BitVec.extractLsb'_toNat, Nat.shiftRight_eq_div_pow, h])

/-- So is a single bit. -/
theorem getLsbD_eq_of_toNat {n k : Nat} {x : BitVec n} {b : Bool} (h : x.toNat / 2 ^ k % 2 = b.toNat) :
    x.getLsbD k = b := by
  rw [← BitVec.testBit_toNat, Nat.testBit_eq_decide_div_mod_eq, h]
  cases b <;> rfl

/-- Settles O36: the fields of the word's number. -/
theorem responseWordPacksItsFields : Obligations.ResponseWordPacksItsFields := by
  intro s
  have hword := s.rspWord_toNat
  have hflipped := s.rspFlipped.toNat_lt
  exact ⟨extractLsb'_eq_of_toNat (by omega), getLsbD_eq_of_toNat (by omega), extractLsb'_eq_of_toNat (by omega),
    extractLsb'_eq_of_toNat (by omega)⟩

/-! ### Decoding (R60, R62, R63, R65) -/

section

variable (sel len : Word) (ac : Bool) (op : BitVec 4)

@[simp] theorem opField_packHeader : opField (packHeader sel len ac op) = op := (Laws.HeaderFields.packed ..).1

@[simp] theorem rsvField_packHeader : rsvField (packHeader sel len ac op) = 0#3 := (Laws.HeaderFields.packed ..).2

@[simp] theorem acField_packHeader : acField (packHeader sel len ac op) = ac := by
  have hword := packHeader_toNat sel len ac op
  have hac := ac.toNat_lt
  exact getLsbD_eq_of_toNat (by omega)

@[simp] theorem lenField_packHeader : lenField (packHeader sel len ac op) = len := by
  have hword := packHeader_toNat sel len ac op
  have hac := ac.toNat_lt
  exact extractLsb'_eq_of_toNat (by omega)

@[simp] theorem selField_packHeader : selField (packHeader sel len ac op) = sel := by
  have hword := packHeader_toNat sel len ac op
  have hac := ac.toNat_lt
  exact extractLsb'_eq_of_toNat (by omega)

theorem decodeHeader_packHeader : decodeHeader (packHeader sel len ac op) = selectOp op len sel ac := by
  simp [decodeHeader]

end

/-- Settles O3: the decoder sees the packed fields, and each operation reads its operands from where they were packed. -/
theorem decodeOfEncodeGivesTheRequest : Obligations.DecodeOfEncodeGivesTheRequest := by
  intro i
  rw [encodeHeader, decodeHeader_packHeader]
  cases i <;> rfl

theorem acOf_eq_false_iff (i : Instr) : acOf i = false ↔ ∃ n, i = .decode n false := by
  cases i <;> simp [acOf]

/-- Settles O4: the number of a packed header, and of the written-out one. -/
theorem assembledHeaderIsTheSumOfItsFields : Obligations.AssembledHeaderIsTheSumOfItsFields := by
  refine ⟨fun i => ?_, acOf_eq_false_iff, by decide⟩
  rw [encodeHeader, packHeader_toNat]
  cases acOf i <;> rfl

/-- The fields an operation reads are all it selects a request by (R63). -/
theorem selectOp_congr {op : BitVec 4} {len len' sel sel' : Word} {ac ac' : Bool} (hlen : op ≠ 0x3#4 → len = len')
    (hsel : op = 0x3#4 ∨ op = 0x4#4 → sel = sel') (hac : op = 0xA#4 → ac = ac') :
    selectOp op len sel ac = selectOp op len' sel' ac' := by
  unfold selectOp
  split <;> simp_all [← BitVec.toNat_inj]

theorem selectOp_rejects_iff (op : BitVec 4) (len sel : Word) (ac : Bool) :
    (∃ e, selectOp op len sel ac = .error e) ↔ op = 0x0#4 ∨ 0xB ≤ op.toNat := by
  rw [← BitVec.toNat_inj]
  unfold selectOp
  split
  case h_11 =>
    simp only [imp_false] at *
    exact iff_of_true ⟨_, rfl⟩ (by simp only [BitVec.toNat_ofNat]; omega)
  all_goals simp [*]

/-- Settles O5: both headers decode by one op, on fields that agree where it reads them. -/
theorem ignoredHeaderFieldsDoNotMatter : Obligations.IgnoredHeaderFieldsDoNotMatter := by
  intro h h' hop hrsv hlen hsel hac
  rw [decodeHeader, decodeHeader, ← hrsv, ← hop, selectOp_congr hlen hsel hac]

/-- Settles O6: a header is rejected by its rsv field first, then by its op. -/
theorem exactlyReservedHeadersAreRejected : Obligations.ExactlyReservedHeadersAreRejected := by
  intro h
  by_cases hrsv : rsvField h = 0#3
  · simp only [decodeHeader, hrsv, ne_eq, not_true_eq_false, if_false, selectOp_rejects_iff, or_false]
  · simp [decodeHeader, hrsv]

/-- Settles O2: the written-out headers are evaluated. -/
theorem writtenOutHeadersDecode : Obligations.WrittenOutHeadersDecode := by
  unfold Obligations.WrittenOutHeadersDecode
  decide

/-! ### The assembler (R68 to R70) -/

theorem acOf_instrOfLine_eq_false_iff (l : AsmLine) :
    acOf (instrOfLine l) = false ↔ ∃ len cs, l = .withBits .decodeRaw len cs := by
  cases l with
  | pbn | mdb | ispar | cover => simp [instrOfLine, acOf]
  | withBits m len cs => cases m <;> simp [instrOfLine, instrOfBits, acOf]

theorem lenOf_instrOfBits (m : BitsMnemonic) (len : Word) : lenOf (instrOfBits m len) = len := by
  cases m <;> rfl

theorem hostHeaderOk_encodeHeader (i : Instr) : hostHeaderOk (encodeHeader i) = true := by
  simp [hostHeaderOk, encodeHeader]

/-- The length field of a well-formed line with a bit string holds the string's length, written out or left out. -/
theorem lenOf_instrOfLine_withBits {m : BitsMnemonic} {len : Option Nat} {cs : List Char}
    (h : (AsmLine.withBits m len cs).wellFormed = true) :
    (lenOf (instrOfLine (.withBits m len cs))).toNat = cs.length := by
  simp only [AsmLine.wellFormed, Bool.and_eq_true, fits16, decide_eq_true_eq, lengthAgrees, beq_iff_eq] at h
  obtain ⟨⟨⟨hfits, -⟩, hlen⟩, -⟩ := h
  rw [instrOfLine, lenOf_instrOfBits, hlen, BitVec.toNat_ofNat, Nat.mod_eq_of_lt hfits]

theorem getD_map_eq_one (cs : List Char) (j : Nat) :
    (cs.map (· == '1')).getD j false = decide (cs[j]? = some '1') := by
  rw [List.getD_eq_getElem?_getD, List.getElem?_map]
  cases cs[j]? with
  | none => rfl
  | some c => simp [beq_eq_decide]

/-- Settles O57: a well-formed line assembles to the header of its request, whose fields are the packed ones. -/
theorem assembledLinesSpellTheirRequest : Obligations.AssembledLinesSpellTheirRequest := by
  refine fun l => ⟨fun h => by simp [assemble, h], fun h => ?_⟩
  refine ⟨⟨encodeHeader (instrOfLine l), bitsOfLine l⟩, if_pos h, decodeOfEncodeGivesTheRequest _,
    hostHeaderOk_encodeHeader _, ?_, ?_⟩
  · rw [encodeHeader, acField_packHeader, acOf_instrOfLine_eq_false_iff]
  · rintro m len cs rfl
    refine ⟨?_, List.length_map _, getD_map_eq_one cs⟩
    rw [encodeHeader, lenField_packHeader, lenOf_instrOfLine_withBits h]

/-! ### What a step does with a request (R44, R61, R65, R200) -/

theorem perform_of_ok {h : Header} {i : Instr} (hd : decodeHeader h = .ok i) (s : State) : perform h s = exec i s := by
  simp only [perform, hd]

theorem perform_of_error {h : Header} {e : Reject} (hd : decodeHeader h = .error e) (s : State) :
    perform h s = .next (s.fail .invalidOp) := by
  simp only [perform, hd]

theorem step_of_rst {s : State} (hr : s.rst = true) : step s = .next s.resetEdge := by
  simp [step, transact, hr]

/-- A placed table word is on the port of an accepting block (log 6). -/
theorem State.withFetchWord_accepting (s : State) (nbits w : Nat) : (s.withFetchWord nbits w).Accepting := ⟨rfl, rfl⟩

theorem decodeTableWord_eq_some_iff {nbits w : Nat} {i : Instr} :
    decodeTableWord nbits w = some i ↔ decodeHeader (tableHeader nbits w) = .ok i := by
  unfold decodeTableWord
  cases decodeHeader (tableHeader nbits w) <;> simp

/-- Settles O1: the cases of a transaction, each performing the header that it names. -/
theorem stepRunsTheRequestOnThePort : Obligations.StepRunsTheRequestOnThePort := by
  refine fun s => ⟨step_of_rst, fun r hr hf => ?_, fun ha => ?_, fun hready hv => ?_, fun w i hw => ?_⟩
  · rw [step_of_inFlight hr hf]
    exact ⟨State.operandBus_of_inFlight hf, fun i hd => perform_of_ok hd s, fun e hd => perform_of_error hd s⟩
  · rw [step_of_accepting ha]
    exact ⟨State.operandBus_of_accepting ha, fun i hd => perform_of_ok hd s, fun e hd => perform_of_error hd s⟩
  · obtain ⟨hr, hf⟩ := s.reqReady_iff.1 hready
    exact step_of_no_request hr hf hv
  · have ha := s.withFetchWord_accepting 40 w
    refine ⟨?_, State.operandBus_of_accepting ha, rfl⟩
    rw [step_of_accepting ha]
    exact perform_of_ok (decodeTableWord_eq_some_iff.1 hw) _

/-! ### Every step completes (R175, R178, R210) -/

/-- What every step keeps, at either grain: the build parameter and the input wires (10_state.md R29). -/
def WiresKept (s t : State) : Prop :=
  t.cfg = s.cfg ∧ t.rst = s.rst ∧ t.reqValid = s.reqValid ∧ t.reqHdr = s.reqHdr ∧ t.reqBits.toNat = s.reqBits.toNat

theorem perform_keeps_wires (h : Header) (s : State) :
    ∃ t, perform h s = .next t ∧ WiresKept s t ∧ t.inFlight = none := by
  obtain ⟨t, ht, hcfg, hrst, hvalid, hhdr, hbits, hidle, -⟩ := perform_completes h s
  exact ⟨t, ht, ⟨hcfg, hrst, hvalid, hhdr, hbits⟩, hidle⟩

theorem step_keeps_wires (s : State) : ∃ t, step s = .next t ∧ WiresKept s t ∧ t.inFlight = none := by
  obtain ⟨-, h⟩ | ⟨-, r, -, h⟩ | ⟨-, -, -, h⟩ | ⟨-, hf, -, h⟩ := step_cases s <;> rw [h]
  · exact ⟨_, rfl, ⟨rfl, rfl, rfl, rfl, rfl⟩, rfl⟩
  · exact perform_keeps_wires ..
  · exact perform_keeps_wires ..
  · exact ⟨_, rfl, ⟨rfl, rfl, rfl, rfl, rfl⟩, hf⟩

theorem clkEdge_keeps_wires (s : State) : ∃ t, clkEdge s = .next t ∧ WiresKept s t := by
  have performs (h : Header) : ∃ t, perform h s = .next t ∧ WiresKept s t :=
    (perform_keeps_wires h s).imp fun t ⟨ht, hkept, _⟩ => ⟨ht, hkept⟩
  obtain ⟨-, h⟩ | ⟨-, r, -, ⟨-, h⟩ | ⟨k, -, h⟩⟩ | ⟨-, -, -, ⟨-, h⟩ | ⟨k, -, h⟩⟩ | ⟨-, -, -, h⟩ :=
    clkEdge_cases s <;> rw [h]
  case inl => exact ⟨_, rfl, rfl, rfl, rfl, rfl, rfl⟩
  · exact performs _
  · exact ⟨_, rfl, rfl, rfl, rfl, rfl, rfl⟩
  · exact performs _
  · exact ⟨_, rfl, rfl, rfl, rfl, rfl, rfl⟩
  · exact ⟨_, rfl, rfl, rfl, rfl, rfl, rfl⟩

/-- Settles O22: every case of a transaction and of a clock edge completes and keeps the wires. -/
theorem everyStepCompletes : Obligations.EveryStepCompletes := by
  refine fun s => ⟨?_, clkEdge_keeps_wires s⟩
  obtain ⟨t, ht, ⟨hcfg, hrst, hvalid, hhdr, hbits⟩, hidle⟩ := step_keeps_wires s
  exact ⟨t, ht, hcfg, hrst, hvalid, hhdr, hbits, hidle⟩

end Sys2Proof.Machine
end

section
/-! BitIndexMath (40_bit_index_math.md). Each of its functions is the adjoint of a bound on powers of two: pbn(d) <= k
iff d + k < 2^k, the bit length of n is <= k iff n < 2^k, and d <= mdb(n) iff d + pbn(d) <= n. The laws of pbn, mdb and
the parity positions, and what PBN, MDB and ISPAR answer, follow from these. -/

namespace Sys2Proof.Machine

/-! ### pbn: the least sufficient count (R90) -/

/-- R90's condition without its subtractions, which never go below 0. -/
theorem le_two_pow_sub_iff (d k : Nat) : d ≤ 2 ^ k - k - 1 ↔ d + k + 1 ≤ 2 ^ k := by
  have hk : k < 2 ^ k := Nat.lt_two_pow_self
  omega

theorem pbn_le_iff {d k : Nat} : pbn d ≤ k ↔ d + k + 1 ≤ 2 ^ k := by
  constructor
  · intro h
    induction k, h using Nat.le_induction with
    | base => exact (le_two_pow_sub_iff ..).1 (le_pbn d)
    | succ k _ ih =>
      rw [Nat.pow_succ]
      omega
  · exact fun h => pbn_le ((le_two_pow_sub_iff ..).2 h)

theorem lt_pbn_iff {d k : Nat} : k < pbn d ↔ 2 ^ k < d + k + 1 := by
  rw [← Nat.not_le, pbn_le_iff, Nat.not_le]

theorem pbn_eq_succ_iff {d j : Nat} : pbn d = j + 1 ↔ 2 ^ j < d + (j + 1) ∧ d + (j + 1) < 2 ^ (j + 1) := by
  rw [Nat.eq_iff_le_and_ge, Nat.succ_le_iff, pbn_le_iff, lt_pbn_iff, and_comm]
  rfl

theorem pbn_zero : pbn 0 = 0 := rfl

/-- One parity bit serves no data: a count of 1 suffices for d = 0 only, where 0 does. -/
theorem pbn_ne_one (d : Nat) : pbn d ≠ 1 := by
  rw [ne_eq, pbn_eq_succ_iff]
  omega

theorem pbn_lt_pbn_succ_iff {d : Nat} : pbn d < pbn (d + 1) ↔ ∃ k, d + 1 + k = 2 ^ k := by
  constructor
  · intro h
    have hle := pbn_le_iff.1 (Nat.le_refl (pbn d))
    have hlt := lt_pbn_iff.1 h
    exact ⟨pbn d, by omega⟩
  · rintro ⟨k, heq⟩
    have hle : pbn d ≤ k := pbn_le_iff.2 (by omega)
    exact hle.trans_lt (lt_pbn_iff.2 (by omega))

/-- The increments of pbn below 2000: at most 11 parity bits are needed there, so each is a 2^k - k with k <= 10. -/
theorem pbn_increments_below_2000 {d : Nat} (h1 : 1 ≤ d) (h : d < 2000) :
    pbn (d - 1) < pbn d ↔ d ∈ [1, 2, 5, 12, 27, 58, 121, 248, 503, 1014] := by
  obtain ⟨d, rfl⟩ := Nat.exists_eq_add_of_le' h1
  rw [Nat.add_sub_cancel, pbn_lt_pbn_succ_iff]
  constructor
  · rintro ⟨k, heq⟩
    have h11 : pbn (d + 1) ≤ 11 := pbn_le_iff.2 (by omega)
    have hk : k < 11 := (lt_pbn_iff.2 (by omega)).trans_le h11
    rw [Nat.eq_sub_of_add_eq heq]
    clear heq
    revert k
    decide
  · have hlist : ∀ x ∈ [1, 2, 5, 12, 27, 58, 121, 248, 503, 1014], ∃ k < 11, x + k = 2 ^ k := by decide
    exact fun hd => (hlist _ hd).imp fun _ => And.right

/-- Settles O38, from the adjunction `pbn_le_iff`. -/
theorem pbnIsTheLeastSufficientCount : Obligations.PbnIsTheLeastSufficientCount := by
  refine ⟨fun d => ⟨le_pbn d, fun k hk => ?_⟩, le_two_pow_sub_iff, fun d k hk => ?_, pbn_ne_one, pbn_zero,
    fun d => pbn_increments_below_2000⟩
  · rw [← Nat.not_le, le_two_pow_sub_iff, ← pbn_le_iff]
    exact Nat.not_le.2 hk
  · obtain ⟨j, rfl⟩ := Nat.exists_eq_add_of_le' (Nat.le_of_succ_le hk)
    have hj : j < 2 ^ j := Nat.lt_two_pow_self
    rw [pbn_eq_succ_iff, le_two_pow_sub_iff, Nat.add_sub_cancel]
    omega

/-! ### Powers of two, the bit length and the parity positions (R12, R92, R96) -/

theorem isPow2_iff {x : Nat} : isPow2 x = true ↔ ∃ j, x = 2 ^ j := by
  rw [isPow2, beq_iff_eq]
  constructor
  · exact fun h => ⟨_, h⟩
  · rintro ⟨j, rfl⟩
    rw [Nat.log2_two_pow]

theorem isPar_iff {p : Nat} : isPar p = true ↔ ∃ j, p + 1 = 2 ^ j := isPow2_iff

theorem bitLength_of_pos {n : Nat} (h : 1 ≤ n) : bitLength n = Nat.log2 n + 1 := if_neg (by omega)

theorem bitLength_le_iff {n k : Nat} : bitLength n ≤ k ↔ n < 2 ^ k := by
  cases n with
  | zero => simp [bitLength]
  | succ n => rw [bitLength_of_pos (by omega), Nat.succ_le_iff, Nat.log2_lt (by omega)]

theorem lt_bitLength_iff {n k : Nat} : k < bitLength n ↔ 2 ^ k ≤ n := by
  rw [← Nat.not_le, bitLength_le_iff, Nat.not_lt]

theorem bitLength_le (n : Nat) : bitLength n ≤ n := bitLength_le_iff.2 Nat.lt_two_pow_self

theorem bitLength_two_pow (j : Nat) : bitLength (2 ^ j) = j + 1 := by
  rw [bitLength_of_pos Nat.one_le_two_pow, Nat.log2_two_pow]

/-- Below a power of two the bit length is its exponent. -/
theorem bitLength_of_succ_eq_two_pow {n j : Nat} (h : n + 1 = 2 ^ j) : bitLength n = j := by
  refine eq_of_forall_lt_iff fun i => ?_
  rw [lt_bitLength_iff, ← Nat.pow_lt_pow_iff_right (a := 2) (by omega)]
  omega

/-- The bit length grows at powers of two only. -/
theorem bitLength_succ_of_not_isPar {n : Nat} (h : isPar n = false) : bitLength (n + 1) = bitLength n := by
  refine eq_of_forall_lt_iff fun i => ?_
  have hi : n + 1 ≠ 2 ^ i := fun heq => by simp [isPar_iff.2 ⟨i, heq⟩] at h
  rw [lt_bitLength_iff, lt_bitLength_iff]
  omega

/-- The parity positions of a length, listed: the numbers 2^j - 1, one for each binary digit of the length. -/
theorem parityPositions_eq (n : Nat) : parityPositions n = (List.range (bitLength n)).map fun j => 2 ^ j - 1 := by
  induction n with
  | zero => rfl
  | succ n ih =>
    have hsucc : parityPositions (n + 1) = parityPositions n ++ [n].filter isPar := by
      rw [parityPositions, List.range_succ, List.filter_append]
      rfl
    rw [hsucc, ih]
    cases hp : isPar n with
    | false => simp [hp, bitLength_succ_of_not_isPar hp]
    | true =>
      obtain ⟨j, hj⟩ := isPar_iff.1 hp
      rw [bitLength_of_succ_eq_two_pow hj, hj, bitLength_two_pow, List.range_succ, List.map_append]
      simp [hp, ← hj]

theorem parityPositions_length (n : Nat) : (parityPositions n).length = bitLength n := by
  rw [parityPositions_eq, List.length_map, List.length_range]

/-- A codeword of an encoder has as many parity positions as it has parity bits. -/
theorem bitLength_add_pbn (d : Nat) : bitLength (d + pbn d) = pbn d := by
  have hle : bitLength (d + pbn d) ≤ pbn d := bitLength_le_iff.2 (pbn_le_iff.1 le_rfl)
  have hlt : d + pbn d < 2 ^ bitLength (d + pbn d) := bitLength_le_iff.1 le_rfl
  exact hle.antisymm (pbn_le_iff.2 (by omega))

/-- Settles O42: the first 9 of the listed positions. -/
theorem parityPositionsArePowersOfTwoLessOne : Obligations.ParityPositionsArePowersOfTwoLessOne := by
  refine ⟨fun p => isPar_iff, ?_⟩
  rw [parityPositions_eq, show bitLength 256 = 9 from bitLength_two_pow 8]
  rfl

/-- Settles O39: the count is the bit length. -/
theorem parityPositionsAreCounted : Obligations.ParityPositionsAreCounted := by
  refine ⟨rfl, fun n hn => ?_, fun d => ?_⟩
  · rw [parityPositions_length, bitLength_of_pos hn]
  · rw [parityPositions_length, bitLength_add_pbn]

/-! ### mdb: the largest data length that fits (R93, R95) -/

theorem le_mdb_iff {d n : Nat} : d ≤ mdb n ↔ d + pbn d ≤ n := by
  have hbn := bitLength_le n
  rw [mdb, Nat.le_sub_iff_add_le hbn]
  constructor
  · intro h
    have hn : n < 2 ^ bitLength n := bitLength_le_iff.1 le_rfl
    have hle : pbn d ≤ bitLength n := pbn_le_iff.2 (by omega)
    omega
  · intro h
    cases hb : bitLength n with
    | zero => omega
    | succ j =>
      have hn : 2 ^ j ≤ n := lt_bitLength_iff.1 (by omega)
      by_cases hp : pbn d ≤ j
      · exact (pbn_le_iff.1 hp).trans hn
      · omega

/-- The search from a length that fits ends at mdb(n), if it has the fuel. -/
theorem mdbFrom_eq_mdb {fuel d n : Nat} (hd : d ≤ mdb n) (hfuel : mdb n ≤ d + fuel) : mdbFrom fuel d n = mdb n := by
  induction fuel generalizing d with
  | zero => exact hd.antisymm hfuel
  | succ fuel ih =>
    simp only [mdbFrom, ← le_mdb_iff]
    split
    · exact ih ‹_› (by omega)
    · omega

theorem mdb_le (n : Nat) : mdb n ≤ n := Nat.sub_le ..

theorem mdb_eq_mdbSearch (n : Nat) : mdb n = mdbSearch n :=
  (mdbFrom_eq_mdb (Nat.zero_le _) ((mdb_le n).trans (by omega))).symm

theorem mdb_of_pos {n : Nat} (h : 1 ≤ n) : mdb n = n - (Nat.log2 n + 1) := by
  rw [mdb, bitLength_of_pos h]

theorem add_pbn_lt_add_pbn {d e : Nat} (h : d < e) : d + pbn d < e + pbn e :=
  Nat.add_lt_add_of_lt_of_le h (pbn_mono h.le)

/-- Settles O40, from the adjunction `le_mdb_iff`. -/
theorem mdbIsTheLargestThatFits : Obligations.MdbIsTheLargestThatFits :=
  ⟨mdb_eq_mdbSearch, fun _ => ⟨le_mdb_iff.1 le_rfl, fun _ => le_mdb_iff.2⟩, fun _ _ => add_pbn_lt_add_pbn,
    fun _ => mdb_of_pos⟩

theorem mdb_add_pbn (d : Nat) : mdb (d + pbn d) = d := by
  rw [mdb, bitLength_add_pbn, Nat.add_sub_cancel]

/-- A length that is a power of two 2^j would need j + 1 parity bits, yet j serve the data left. -/
theorem add_pbn_ne_two_pow (d j : Nat) : d + pbn d ≠ 2 ^ j := by
  intro h
  have hpbn : pbn d = j + 1 := by rw [← bitLength_add_pbn, h, bitLength_two_pow]
  have hlt : 2 ^ j < d + j + 1 := lt_pbn_iff.1 (by omega)
  omega

/-- A length strictly between two powers of two is made from the data that its digits leave. -/
theorem mdb_add_pbn_mdb {n : Nat} (h1 : 1 ≤ n) (h : ¬ ∃ j, n = 2 ^ j) : mdb n + pbn (mdb n) = n := by
  have hlow : 2 ^ Nat.log2 n ≤ n := Nat.log2_self_le (by omega)
  have hhigh : n < 2 ^ (Nat.log2 n + 1) := Nat.lt_log2_self
  have hne : n ≠ 2 ^ Nat.log2 n := fun heq => h ⟨_, heq⟩
  have hlog : Nat.log2 n < 2 ^ Nat.log2 n := Nat.lt_two_pow_self
  have hpbn : pbn (mdb n) = Nat.log2 n + 1 := by
    rw [pbn_eq_succ_iff, mdb_of_pos h1]
    omega
  rw [hpbn, mdb_of_pos h1]
  omega

/-- Settles O41: `mdb` undoes d + pbn(d), and powers of two are the lengths that it does not make. -/
theorem lengthRoundTrip : Obligations.LengthRoundTrip := by
  refine ⟨mdb_add_pbn, fun n hn => ⟨?_, fun h => ⟨mdb n, (mdb_add_pbn_mdb hn h).symm⟩⟩⟩
  rintro ⟨d, rfl⟩ ⟨j, hj⟩
  exact add_pbn_ne_two_pow d j hj

/-! ### The requests (R91, R94, R97) -/

/-- An answer by a number alone, with status NONE. -/
theorem State.respond_number_answers (s : State) {v : Nat} (hv : v < 65536) :
    Answers s (s.respond .none false 0 v 0#s.cfg.nMax) 0b000#3 false 0 v fun _ => false := by
  simpa [statusCode] using s.respond_answers .none false 0#s.cfg.nMax (Nat.zero_lt_succ _) hv

/-- Settles O8: 17 parity bits serve every 16-bit length, so nothing is cut. -/
theorem pbnAnswersTheParityCount : Obligations.PbnAnswersTheParityCount := by
  intro s d
  have h17 : pbn d.toNat ≤ 17 := pbn_le_iff.2 (by omega)
  exact ⟨_, rfl, s.respond_number_answers (by omega)⟩

/-- Settles O9: mdb(n) is at most n, and it is what the search finds. -/
theorem mdbAnswersTheLargestDataLength : Obligations.MdbAnswersTheLargestDataLength := by
  intro s n
  refine ⟨_, rfl, ?_⟩
  split
  · exact s.fail_answers .invalidInput
  · rw [← mdb_eq_mdbSearch]
    exact s.respond_number_answers ((mdb_le _).trans_lt n.isLt)

/-- Settles O10: the request tests `isPar`. -/
theorem isparAnswersWhetherAParityPosition : Obligations.IsparAnswersWhetherAParityPosition := by
  intro s p
  refine ⟨_, rfl, fun h => ?_, fun h => ?_⟩
  · rw [if_pos (isPar_iff.2 h)]
    exact s.respond_number_answers (by omega)
  · rw [if_neg (mt isPar_iff.1 h)]
    exact s.respond_number_answers (by omega)

end Sys2Proof.Machine
end

section
/-! The coverage map (41_coverage_map.md). A parity position p has p + 1 = 2^j, so that cov(n, p) is the set of the
positions below n whose 1-indexed value has bit j set. The run procedure lists the same set, the groups that cover a
position are the bits of its 1-indexed value, and COVER answers the set as a mask. -/

namespace Sys2Proof.Machine

/-! ### The bit test at a parity position (R111) -/

theorem and_two_pow_ne_zero_iff (x j : Nat) : x &&& 2 ^ j ≠ 0 ↔ x.testBit j = true := by
  rw [Nat.and_two_pow]
  cases x.testBit j <;> simp

theorem mem_cov_iff_testBit {n p j i : Nat} (hj : p + 1 = 2 ^ j) :
    i ∈ cov n p ↔ i < n ∧ (i + 1).testBit j = true := by
  rw [mem_cov, hj, and_two_pow_ne_zero_iff]

theorem cov_pairwise_lt (n p : Nat) : (cov n p).Pairwise (· < ·) := List.pairwise_lt_range.filter _

theorem cov_length_le (n p : Nat) : (cov n p).length ≤ n :=
  (List.length_filter_le ..).trans List.length_range.le

/-! ### The run procedure (R110) -/

theorem mem_run {n p s i : Nat} :
    i ∈ ((List.range (p + 1)).map (s + ·)).filter (· < n) ↔ s ≤ i ∧ i ≤ s + p ∧ i < n := by
  simp only [List.mem_filter, List.mem_map, List.mem_range, decide_eq_true_eq]
  constructor
  · rintro ⟨⟨a, ha, rfl⟩, hn⟩
    omega
  · exact fun ⟨hs, hp, hn⟩ => ⟨⟨i - s, by omega, by omega⟩, hn⟩

/-- With the fuel to reach n, the procedure takes from the run start on the first p + 1 of every 2 (p + 1) positions. -/
theorem mem_covRunsFrom {fuel n p s i : Nat} (hfuel : n ≤ s + fuel) :
    i ∈ covRunsFrom fuel n p s ↔ s ≤ i ∧ i < n ∧ (i - s) % (2 * (p + 1)) ≤ p := by
  induction fuel generalizing s with
  | zero =>
    simp only [covRunsFrom, List.not_mem_nil, false_iff]
    omega
  | succ fuel ih =>
    rw [covRunsFrom]
    split
    · rw [List.mem_append, mem_run, ih (by omega)]
      by_cases hi : i < s + 2 * (p + 1)
      · rw [Nat.mod_eq_of_lt (a := i - s) (by omega)]
        omega
      · rw [show i - s = i - (s + 2 * (p + 1)) + 2 * (p + 1) by omega, Nat.add_mod_right]
        omega
    · simp only [List.not_mem_nil, false_iff]
      omega

theorem covRunsFrom_ge {fuel n p s i : Nat} (h : i ∈ covRunsFrom fuel n p s) : s ≤ i := by
  induction fuel generalizing s with
  | zero => simp [covRunsFrom] at h
  | succ fuel ih =>
    rw [covRunsFrom] at h
    split at h
    · obtain h | h := List.mem_append.1 h
      · exact (mem_run.1 h).1
      · exact (Nat.le_add_right ..).trans (ih h)
    · simp at h

theorem covRunsFrom_pairwise_lt (fuel n p s : Nat) : (covRunsFrom fuel n p s).Pairwise (· < ·) := by
  induction fuel generalizing s with
  | zero => exact .nil
  | succ fuel ih =>
    rw [covRunsFrom]
    split
    · refine List.pairwise_append.2 ⟨.filter _ ?_, ih _, fun a ha b hb => ?_⟩
      · exact List.pairwise_map.2 (List.pairwise_lt_range.imp fun h => Nat.add_lt_add_left h s)
      · have hrun := mem_run.1 ha
        have hnext := covRunsFrom_ge hb
        omega
    · exact .nil

/-- Bit j of i + 1 by the offset of i from position 2^j - 1: set in the first half of each period of 2 * 2^j. -/
theorem testBit_succ_iff_mod {p j i : Nat} (hj : p + 1 = 2 ^ j) :
    (i + 1).testBit j = true ↔ p ≤ i ∧ (i - p) % (2 * (p + 1)) ≤ p := by
  by_cases hi : p ≤ i
  · have hsplit : i + 1 = (i - p) + (p + 1) := by omega
    have hlow : (i - p) % (p + 1) < p + 1 := Nat.mod_lt _ (by omega)
    rw [Nat.testBit_eq_decide_div_mod_eq, ← hj, hsplit, Nat.add_div_right _ (by omega), Nat.mul_comm 2, Nat.mod_mul,
      decide_eq_true_eq]
    obtain heven | hodd := Nat.mod_two_eq_zero_or_one ((i - p) / (p + 1))
    · rw [heven]
      omega
    · rw [hodd]
      omega
  · rw [Nat.testBit_lt_two_pow (by omega)]
    simp [hi]

theorem mem_covRuns {n p i : Nat} (hp : isPar p = true) : i ∈ covRuns n p ↔ i ∈ cov n p := by
  obtain ⟨j, hj⟩ := isPar_iff.1 hp
  rw [covRuns, mem_covRunsFrom (by omega), mem_cov_iff_testBit hj, testBit_succ_iff_mod hj, and_left_comm]

theorem covRuns_eq_cov (n : Nat) {p : Nat} (hp : isPar p = true) : covRuns n p = cov n p :=
  (covRunsFrom_pairwise_lt ..).eq_of_mem_iff (cov_pairwise_lt n p) fun _ => mem_covRuns hp

/-- Settles O43: two ascending lists with the same members. -/
theorem runProcedureIsTheBitTest : Obligations.RunProcedureIsTheBitTest := fun _ _ hp _ =>
  ⟨fun _ => (mem_covRuns hp).trans mem_cov, covRuns_eq_cov _ hp, covRunsFrom_pairwise_lt ..⟩

/-! ### The groups that cover a position are the bits of its 1-indexed value (R112) -/

theorem filter_testBit_range {x k : Nat} (h : x < 2 ^ k) : (List.range k).filter x.testBit = x.bitIndices := by
  refine (List.pairwise_lt_range.filter _).eq_of_mem_iff Nat.bitIndices_sorted.pairwise fun j => ?_
  rw [List.mem_filter, List.mem_range, Nat.mem_bitIndices, and_iff_right_iff_imp]
  intro hj
  exact (Nat.pow_lt_pow_iff_right (by omega)).1 ((Nat.ge_two_pow_of_testBit hj).trans_lt h)

theorem popcount_eq_length_bitIndices (x : Nat) : popcount x = x.bitIndices.length := by
  rw [popcount, filter_testBit_range Nat.lt_log2_self]

theorem popcount_le_log2 (x : Nat) : popcount x ≤ Nat.log2 x + 1 :=
  (List.length_filter_le ..).trans List.length_range.le

/-- A positive number that is no power of two has two 1 bits. -/
theorem two_le_popcount {x : Nat} (h0 : x ≠ 0) (h : isPow2 x = false) : 2 ≤ popcount x := by
  have hsum := x.sum_map_two_pow_bitIndices
  rw [popcount_eq_length_bitIndices]
  match hx : x.bitIndices with
  | [] => simp [hx, h0.symm] at hsum
  | [j] => simp [isPow2_iff.2 ⟨j, by simpa [hx] using hsum.symm⟩] at h
  | _ :: _ :: _ => simp

theorem parityPositions_filter_cov {n i : Nat} (hi : i < n) :
    ((parityPositions n).filter fun p => decide (i ∈ cov n p)) = (i + 1).bitIndices.map fun j => 2 ^ j - 1 := by
  have hlt : i + 1 < 2 ^ bitLength n := Nat.lt_of_le_of_lt hi (bitLength_le_iff.1 le_rfl)
  rw [parityPositions_eq, List.filter_map, ← filter_testBit_range hlt]
  congr 2
  funext j
  have hj : 2 ^ j - 1 + 1 = 2 ^ j := Nat.sub_add_cancel Nat.one_le_two_pow
  simp [mem_cov_iff_testBit hj, hi]

theorem mem_cov_self {n p : Nat} (hp : isPar p = true) (h : p < n) : p ∈ cov n p := by
  obtain ⟨j, hj⟩ := isPar_iff.1 hp
  rw [mem_cov_iff_testBit hj, hj, Nat.testBit_two_pow_self]
  exact ⟨h, rfl⟩

theorem not_mem_cov_of_isPar {n p q : Nat} (hp : isPar p = true) (hq : isPar q = true) (hne : q ≠ p) :
    q ∉ cov n p := by
  obtain ⟨j, hj⟩ := isPar_iff.1 hp
  obtain ⟨k, hk⟩ := isPar_iff.1 hq
  have hkj : k ≠ j := by
    rintro rfl
    omega
  rw [mem_cov_iff_testBit hj, hk, Nat.testBit_two_pow_of_ne hkj]
  simp

theorem sum_of_covering_groups {n i : Nat} (hi : i < n) :
    (((parityPositions n).filter fun p => decide (i ∈ cov n p)).map (· + 1)).sum = i + 1 := by
  have hid : (· + 1) ∘ (fun j => 2 ^ j - 1) = fun j => 2 ^ j := funext fun _ => Nat.sub_add_cancel Nat.one_le_two_pow
  rw [parityPositions_filter_cov hi, List.map_map, hid, Nat.sum_map_two_pow_bitIndices]

/-- Settles O44: the groups that cover i are the bits of i + 1, listed by `parityPositions_filter_cov`. -/
theorem coverageLaws : Obligations.CoverageLaws := by
  refine ⟨fun _ _ => mem_cov_self, fun _ _ _ => not_mem_cov_of_isPar, fun n i hi hd => ⟨?_, ?_, ?_⟩,
    fun _ _ => sum_of_covering_groups⟩
  · rw [parityPositions_filter_cov hi, List.length_map, popcount_eq_length_bitIndices]
  · exact two_le_popcount (Nat.succ_ne_zero i) hd
  · have hlog : Nat.log2 (i + 1) ≤ Nat.log2 n := (Nat.le_log2 (by omega)).2 ((Nat.log2_self_le (by omega)).trans hi)
    exact (popcount_le_log2 _).trans (Nat.succ_le_succ hlog)

/-! ### The request (R113) -/

/-- COVER's two checks are the causes of INVALID_INPUT that R173 lists for it. -/
theorem badOperand_cover_iff (c : Cfg) (n p : Word) :
    BadOperand c (.cover n p) ↔ (n.toNat = 0 ∨ n.toNat > c.nMax) ∨ p.toNat ≥ n.toNat ∨ isPar p.toNat = false := by
  rw [BadOperand, ← isPar_iff, Bool.not_eq_true, or_assoc]

theorem execCover_of_badOperand {s : State} {n p : Word} (h : BadOperand s.cfg (.cover n p)) :
    execCover n p s = .next (s.fail .invalidInput) := by
  obtain h | h := (badOperand_cover_iff ..).1 h
  · simp only [execCover, if_pos h]
  · simp only [execCover, if_pos h, ite_self]

theorem execCover_of_not_badOperand {s : State} {n p : Word} (h : ¬ BadOperand s.cfg (.cover n p)) :
    execCover n p s = .next (s.respond .none false n.toNat (cov n.toNat p.toNat).length
      (maskOf s.cfg.nMax (cov n.toNat p.toNat))) := by
  obtain ⟨hn, hp⟩ := not_or.1 (mt (badOperand_cover_iff ..).2 h)
  simp only [execCover, if_neg hn, if_neg hp]

/-- Settles O11: the mask has the bits of cov(n, p), all of them below n <= N_MAX. -/
theorem coverAnswersTheCoverageMask : Obligations.CoverAnswersTheCoverageMask := by
  intro s n p
  by_cases hbad : BadOperand s.cfg (.cover n p)
  · exact ⟨_, execCover_of_badOperand hbad, fun _ => s.fail_answers .invalidInput, fun h => absurd hbad h⟩
  · refine ⟨_, execCover_of_not_badOperand hbad, fun h => absurd h hbad, fun _ => ?_⟩
    rw [badOperand_cover_iff, not_or, not_or, not_or, Bool.not_eq_false] at hbad
    obtain ⟨⟨-, hn⟩, -, hp⟩ := hbad
    have hmask : (fun j => (maskOf s.cfg.nMax (cov n.toNat p.toNat)).getLsbD j) =
        fun j => decide (j ∈ cov n.toNat p.toNat) := by
      funext j
      have hlt : j ∈ cov n.toNat p.toNat → j < s.cfg.nMax := fun hj => (mem_cov.1 hj).1.trans_le (by omega)
      simpa [maskOf_getLsbD] using hlt
    rw [covRuns_eq_cov _ hp, ← hmask]
    exact s.respond_answers .none false _ n.isLt ((cov_length_le ..).trans_lt n.isLt)

end Sys2Proof.Machine
end

section
/-! The encoder (42_encoder.md). The value that a parity position ought to hold depends on the data positions alone, so
the order in which the encoder sets the parity positions does not matter, and a word is the codeword of a data block
exactly when it has the block at its data positions and even parity in every group. -/

namespace Sys2Proof.Machine

/-! ### The xor over a parity group (R120, R121) -/

theorem xorAt_cons (w : List Bool) (i : Nat) (ps : List Nat) :
    xorAt w (i :: ps) = xor (w.getD i false) (xorAt w ps) := rfl

theorem xorAt_congr {w w' : List Bool} {ps : List Nat} (h : ∀ i ∈ ps, w.getD i false = w'.getD i false) :
    xorAt w ps = xorAt w' ps :=
  List.foldr_ext _ _ _ fun i hi _ => by rw [h i hi]

theorem xorAt_perm (w : List Bool) {ps qs : List Nat} (h : ps.Perm qs) : xorAt w ps = xorAt w qs :=
  h.foldr_eq' (fun i _ j _ b => Bool.xor_left_comm (w.getD j false) (w.getD i false) b) false

/-- A parity position's group is the position itself and what its expected value is taken from. -/
theorem xorAt_cov {w : List Bool} {p : Nat} (hp : p ∈ parityPositions w.length) :
    xorAt w (cov w.length p) = xor (w.getD p false) (expectedParity w p) := by
  obtain ⟨hlt, hpar⟩ := mem_parityPositions.1 hp
  have hnodup : (cov w.length p).Nodup := List.nodup_range.filter _
  rw [xorAt_perm w (List.perm_cons_erase (mem_cov_self hpar hlt)), hnodup.erase_eq_filter]
  rfl

/-- The expected value of a parity position depends on the data positions alone: its group has no other parity
position. -/
theorem expectedParity_congr {w w' : List Bool} {p : Nat} (hp : isPar p = true) (hlen : w.length = w'.length)
    (hdata : ∀ i, isPar i = false → w.getD i false = w'.getD i false) :
    expectedParity w p = expectedParity w' p := by
  rw [expectedParity, expectedParity, ← hlen]
  refine xorAt_congr fun i hi => hdata i (Bool.eq_false_iff.2 fun hpar => ?_)
  obtain ⟨hcov, hne⟩ := List.mem_filter.1 hi
  exact not_mem_cov_of_isPar hp hpar (by simpa using hne) hcov

/-- Every parity group of w has even parity (R121). -/
def EvenParity (w : List Bool) : Prop := ∀ p ∈ parityPositions w.length, xorAt w (cov w.length p) = false

theorem evenParity_iff {w : List Bool} :
    EvenParity w ↔ ∀ p ∈ parityPositions w.length, w.getD p false = expectedParity w p :=
  forall₂_congr fun p hp => by rw [xorAt_cov hp, bne_eq_false_iff_eq]

/-- Length, data and even parity determine a word. -/
theorem EvenParity.eq_of_ext_eq {w w' : List Bool} (hw : EvenParity w) (hw' : EvenParity w')
    (hlen : w.length = w'.length) (hext : ext w = ext w') : w = w' := by
  have hdata : ∀ i, isPar i = false → w.getD i false = w'.getD i false := by
    intro i hi
    by_cases hlt : i < w.length
    · rw [ext, ext, ← hlen, List.map_inj_left] at hext
      exact hext i (mem_dataPositions.2 ⟨hlt, hi⟩)
    · rw [List.getD_eq_default _ _ (by omega), List.getD_eq_default _ _ (by omega)]
  have hall : ∀ i < w.length, w.getD i false = w'.getD i false := by
    intro i hlt
    cases hi : isPar i with
    | false => exact hdata i hi
    | true =>
      rw [evenParity_iff.1 hw i (mem_parityPositions.2 ⟨hlt, hi⟩), expectedParity_congr hi hlen hdata,
        evenParity_iff.1 hw' i (mem_parityPositions.2 ⟨hlen ▸ hlt, hi⟩)]
  refine List.ext_getElem hlen fun i h h' => ?_
  rw [← List.getD_eq_getElem w false h, hall i h, List.getD_eq_getElem]

/-! ### Setting the parity positions (R120, the second loop) -/

/-- Setting parity positions one after the other leaves at each the value expected in the word before them all. -/
theorem foldl_set_expectedParity_getD {ps : List Nat} {w : List Bool} (hps : ∀ p ∈ ps, p ∈ parityPositions w.length)
    (i : Nat) : (ps.foldl (fun w p => w.set p (expectedParity w p)) w).getD i false =
      if i ∈ ps then expectedParity w i else w.getD i false := by
  induction ps generalizing w with
  | nil => simp
  | cons p ps ih =>
    obtain ⟨hlt, hpar⟩ := mem_parityPositions.1 (hps p List.mem_cons_self)
    have hother : ∀ i, i ≠ p → (w.set p (expectedParity w p)).getD i false = w.getD i false := fun i hi => by
      simp [List.getD_eq_getElem?_getD, List.getElem?_set_ne hi.symm]
    have hdata : ∀ i, isPar i = false → (w.set p (expectedParity w p)).getD i false = w.getD i false := fun i hi =>
      hother i (by rintro rfl; simp [hpar] at hi)
    rw [List.foldl_cons, ih fun q hq => by simpa using hps q (List.mem_cons_of_mem _ hq)]
    by_cases hi : i ∈ ps
    · have hipar : isPar i = true := (mem_parityPositions.1 (hps i (List.mem_cons_of_mem _ hi))).2
      simp only [hi, List.mem_cons, or_true, if_true, expectedParity_congr hipar List.length_set hdata]
    · by_cases hip : i = p
      · subst hip
        simp [hi, List.getD_eq_getElem?_getD, hlt]
      · rw [if_neg hi, if_neg (by simp [hi, hip]), hother i hip]

theorem setParities_getD (w : List Bool) (i : Nat) : (setParities w).getD i false =
    if i ∈ parityPositions w.length then expectedParity w i else w.getD i false :=
  foldl_set_expectedParity_getD (fun _ => id) i

theorem setParities_getD_data (w : List Bool) {i : Nat} (hi : isPar i = false) :
    (setParities w).getD i false = w.getD i false := by
  rw [setParities_getD, if_neg fun h => by simp [(mem_parityPositions.1 h).2] at hi]

theorem setParities_evenParity (w : List Bool) : EvenParity (setParities w) := by
  refine evenParity_iff.2 fun p hp => ?_
  have hpar : isPar p = true := (mem_parityPositions.1 hp).2
  rw [setParities_length] at hp
  rw [setParities_getD, if_pos hp,
    expectedParity_congr hpar (setParities_length w) fun _ => setParities_getD_data w]

theorem ext_setParities (w : List Bool) : ext (setParities w) = ext w := by
  rw [ext, ext, setParities_length]
  exact List.map_congr_left fun _ hi => setParities_getD_data w (mem_dataPositions.1 hi).2

/-! ### Placing the data (R120, the first loop) -/

theorem dataPositions_length (n : Nat) : (dataPositions n).length = mdb n := by
  have hsplit : n = (parityPositions n).length + (dataPositions n).length :=
    List.length_range.symm.trans (List.length_eq_length_filter_add isPar)
  rw [mdb, ← parityPositions_length]
  omega

/-- The data positions of a word hold what stands beside them when it is laid along its positions. -/
theorem ext_eq_zip (w : List Bool) :
    ext w = (((List.range w.length).zip w).filter fun x => !isPar x.1).map Prod.snd := by
  have hzip : (List.range w.length).zip w = (List.range w.length).map fun i => (i, w.getD i false) := by
    refine List.ext_getElem (by simp) fun i h _ => ?_
    have hi : i < w.length := by simpa using h
    simp [hi]
  rw [hzip, List.filter_map, List.map_map]
  rfl

/-- The non-parity positions of a list that `placeData` fills hold the data, if there are as many of them. -/
theorem zip_placeData {is : List Nat} {data : List Bool} (h : (is.filter fun i => !isPar i).length = data.length) :
    ((is.zip (placeData is data)).filter fun x => !isPar x.1).map Prod.snd = data := by
  induction is generalizing data with
  | nil => simpa [eq_comm] using h
  | cons i is ih =>
    cases hi : isPar i with
    | true => simpa [placeData, hi] using ih (by simpa [hi] using h)
    | false =>
      cases data with
      | nil => simp [hi] at h
      | cons b data => simpa [placeData, hi] using ih (by simpa [hi] using h)

theorem ext_placeData {n : Nat} {data : List Bool} (h : mdb n = data.length) :
    ext (placeData (List.range n) data) = data := by
  rw [ext_eq_zip, placeData_length, List.length_range]
  exact zip_placeData ((dataPositions_length n).trans h)

/-! ### The codeword of a data block (R121) -/

theorem enc_evenParity (data : List Bool) : EvenParity (enc data) := setParities_evenParity _

@[simp] theorem ext_enc (data : List Bool) : ext (enc data) = data := by
  rw [enc, ext_setParities, ext_placeData (mdb_add_pbn _)]

/-- A word of the right length that holds the data and has even parity is the codeword. -/
theorem EvenParity.eq_enc {w data : List Bool} (hw : EvenParity w) (hlen : w.length = data.length + pbn data.length)
    (hext : ext w = data) : w = enc data :=
  hw.eq_of_ext_eq (enc_evenParity data) (hlen.trans (enc_length data).symm) (hext.trans (ext_enc data).symm)

/-- Settles O45: the laws of the two loops, `setParities_evenParity` and `ext_placeData`. -/
theorem encoderLaws : Obligations.EncoderLaws :=
  ⟨enc_evenParity, ext_enc, enc_length, by decide, rfl⟩

/-! ### Uniform data (R122) -/

theorem ext_replicate (n : Nat) (b : Bool) : ext (List.replicate n b) = List.replicate (mdb n) b := by
  refine List.eq_replicate_iff.2 ⟨by rw [ext_length, List.length_replicate, dataPositions_length], fun a ha => ?_⟩
  obtain ⟨i, hi, rfl⟩ := List.mem_map.1 ha
  have hlt : i < n := by simpa using (mem_dataPositions.1 hi).1
  simp [List.getD_eq_getElem?_getD, hlt]

theorem xorAt_replicate {n : Nat} {ps : List Nat} (b : Bool) (hps : ∀ i ∈ ps, i < n) :
    xorAt (List.replicate n b) ps = (b && ps.length.bodd) := by
  induction ps with
  | nil => simp [xorAt]
  | cons i ps ih =>
    have hlt : i < n := hps i List.mem_cons_self
    rw [xorAt_cons, ih fun j hj => hps j (List.mem_cons_of_mem _ hj), List.length_cons, Nat.bodd_succ,
      List.getD_replicate _ hlt]
    cases b <;> simp

/-- Uniform data encode uniformly, if they are zeros or every group has an even number of members. -/
theorem enc_replicate {d : Nat} {b : Bool}
    (h : b = true → ∀ p ∈ parityPositions (d + pbn d), (cov (d + pbn d) p).length.bodd = false) :
    enc (List.replicate d b) = List.replicate (d + pbn d) b := by
  refine (EvenParity.eq_enc (fun p hp => ?_) (by simp) (by rw [ext_replicate, mdb_add_pbn])).symm
  rw [List.length_replicate] at hp ⊢
  rw [xorAt_replicate b fun i hi => (mem_cov.1 hi).1]
  cases b with
  | false => rfl
  | true => exact h rfl p hp

/-- The numbers of k >= 2 binary digits that have a given digit 1 are even in number: a digit below the top one is 1
as often with the top digit 0 as with 1, and the top digit itself is 1 in 2^(k - 1) of them. -/
theorem countP_testBit_range_bodd {k j : Nat} (hk : 2 ≤ k) (hj : j < k) :
    ((List.range (2 ^ k)).countP (·.testBit j)).bodd = false := by
  obtain ⟨i, rfl⟩ := Nat.exists_eq_add_of_le' hk
  rw [Nat.pow_succ, Nat.mul_two, List.range_add, List.countP_append, List.countP_map, Nat.bodd_add]
  obtain hlt | rfl := (Nat.le_of_lt_succ hj).lt_or_eq
  · have hsame : (fun x => Nat.testBit x j) ∘ (2 ^ (i + 1) + ·) = fun x => x.testBit j :=
      funext fun x => Nat.testBit_two_pow_add_gt hlt x
    rw [hsame, Bool.xor_self]
  · have hlow : (List.range (2 ^ (i + 1))).countP (·.testBit (i + 1)) = 0 :=
      List.countP_eq_zero.2 fun x hx => by simp [Nat.testBit_lt_two_pow (List.mem_range.1 hx)]
    have hhigh : (List.range (2 ^ (i + 1))).countP ((fun x => Nat.testBit x (i + 1)) ∘ (2 ^ (i + 1) + ·)) =
        2 ^ (i + 1) := by
      rw [List.countP_eq_length.2, List.length_range]
      intro x hx
      simp [Nat.testBit_two_pow_add_eq, Nat.testBit_lt_two_pow (List.mem_range.1 hx)]
    rw [hlow, hhigh, Nat.pow_succ, Nat.bodd_mul]
    simp

/-- The members of a group count the numbers below n + 1 with the group's binary digit 1. -/
theorem cov_length {n p j : Nat} (hj : p + 1 = 2 ^ j) :
    (cov n p).length = (List.range (n + 1)).countP (·.testBit j) := by
  rw [List.range_succ_eq_map, List.countP_cons_of_neg (by simp), List.countP_map, cov, ← List.countP_eq_length_filter]
  refine List.countP_congr fun i _ => ?_
  rw [hj, bne_iff_ne]
  exact and_two_pow_ne_zero_iff (i + 1) j

/-- In a word of length 2^k - 1 >= 3 every group has an even number of members. -/
theorem cov_length_bodd {n k p : Nat} (hk : 2 ≤ k) (hn : n + 1 = 2 ^ k) (hp : p ∈ parityPositions n) :
    (cov n p).length.bodd = false := by
  obtain ⟨hlt, hpar⟩ := mem_parityPositions.1 hp
  obtain ⟨j, hj⟩ := isPar_iff.1 hpar
  have hjk : j < k := (Nat.pow_lt_pow_iff_right (a := 2) (by omega)).1 (by omega)
  rw [cov_length hj, hn, countP_testBit_range_bodd hk hjk]

/-- k parity bits serve 2^k - k - 1 data bits exactly, in a codeword of length 2^k - 1 (R90). -/
theorem pbn_two_pow_sub {k : Nat} (hk : 2 ≤ k) : pbn (2 ^ k - k - 1) = k := by
  obtain ⟨j, rfl⟩ := Nat.exists_eq_add_of_le' hk
  have hj : j < 2 ^ j := Nat.lt_two_pow_self
  rw [pbn_eq_succ_iff]
  simp only [Nat.pow_succ]
  omega

/-- Settles O46: zeros have even parity in every group, ones where every group has an even number of members. -/
theorem uniformDataEncodesUniformly : Obligations.UniformDataEncodesUniformly := by
  refine ⟨by decide, fun d => enc_replicate nofun, fun k hk => ?_⟩
  have hpow : k < 2 ^ k := Nat.lt_two_pow_self
  have hlen : 2 ^ k - k - 1 + pbn (2 ^ k - k - 1) = 2 ^ k - 1 := by
    rw [pbn_two_pow_sub hk]
    omega
  have hgroups : ∀ p ∈ parityPositions (2 ^ k - 1), (cov (2 ^ k - 1) p).length.bodd = false :=
    fun p hp => cov_length_bodd hk (by omega) hp
  rw [enc_replicate (by rw [hlen]; exact fun _ => hgroups), hlen]

/-! ### The request (R122) -/

/-- A sequence that fits the bus is on its wires. -/
theorem packBits_wires {n : Nat} {l : List Bool} (h : l.length ≤ n) : (packBits n l).getLsbD = wires l := by
  funext j
  rw [packBits_getLsbD, wires]
  by_cases hj : j < n
  · simp [hj]
  · rw [List.getD_eq_default _ _ (by omega), Bool.and_false]

theorem execEncode_of_lt {s : State} {d : Word} (h : s.cfg.dMax < d.toNat) :
    execEncode d s = .next (s.fail .invalidInput) := by
  simp only [execEncode, if_pos h]

theorem execEncode_of_le {s : State} {d : Word} (h : d.toNat ≤ s.cfg.dMax) :
    execEncode d s = .next (s.respond .none false (d.toNat + pbn d.toNat) (pbn d.toNat)
      (packBits s.cfg.nMax (enc (s.operand d.toNat)))) := by
  simp only [execEncode, if_neg h.not_gt, enc_length, s.operand_length]

/-- Settles O12: a data block that the build admits has a codeword that fits the bus, so nothing is cut. -/
theorem encodeAnswersTheCodeword : Obligations.EncodeAnswersTheCodeword := by
  intro s d
  obtain h | h := Nat.lt_or_ge s.cfg.dMax d.toNat
  · refine ⟨_, execEncode_of_lt h, ?_⟩
    rw [if_pos h]
    exact s.fail_answers .invalidInput
  · refine ⟨_, execEncode_of_le h, ?_⟩
    have hfit : d.toNat + pbn d.toNat ≤ s.cfg.nMax := codeword_length_le_nMax h
    have hbus : s.cfg.nMax ≤ 65535 := nMax_le s.cfg
    rw [if_neg h.not_gt, ← State.operand, ← packBits_wires (n := s.cfg.nMax) (by simpa using hfit)]
    exact s.respond_answers .none false _ (by omega) (by omega)

end Sys2Proof.Machine
end

section
/-! The syndrome and the corrector (43_decoder.md R130 to R156). Bit j of the syndrome sum is the parity of the group of
position 2^j - 1, and the groups that cover a position i are the bits of i + 1. So a flip at i changes the syndrome by
xor with i + 1, and what the errors in a codeword leave follows from that law alone. -/

namespace Sys2Proof.Machine

/-! ### The syndrome bit by bit (R130) -/

/-- A sum of distinct powers of two in ascending order has their bits. -/
theorem testBit_foldl_add_two_pow (g : Nat → Bool) (c j : Nat) :
    ((List.range c).foldl (fun S k => if g k then S + 2 ^ k else S) 0).testBit j = (decide (j < c) && g j) := by
  induction c generalizing j with
  | zero => simp
  | succ c ih =>
    have hlt := Nat.lt_pow_two_of_testBit (n := c) _ fun i hi => (ih i).trans (by simp [Nat.not_lt.2 hi])
    rw [List.range_succ, List.foldl_append, List.foldl_cons, List.foldl_nil]
    obtain rfl | hjc := eq_or_ne j c
    · cases hg : g j with
      | false => simp [ih, hg]
      | true => simp [Nat.add_comm _ (2 ^ j), Nat.testBit_two_pow_add_eq, ih]
    · have hother : (decide (j < c + 1) && g j) = (decide (j < c) && g j) := by
        rw [decide_eq_decide.2 (show j < c + 1 ↔ j < c by omega)]
      rw [hother, ← ih]
      split
      · rw [Nat.add_comm, ← Nat.mul_one (2 ^ c), Nat.two_pow_add_eq_or_of_lt hlt, Nat.mul_one, Nat.testBit_or,
          Nat.testBit_two_pow_of_ne hjc.symm, Bool.false_or]
      · rfl

theorem mem_parityPositions_of_lt_bitLength {n j : Nat} (h : j < bitLength n) : 2 ^ j - 1 ∈ parityPositions n := by
  rw [parityPositions_eq]
  exact List.mem_map_of_mem (List.mem_range.2 h)

/-- The mismatch of a parity group is the xor over the whole group. -/
theorem synd_eq_foldl (w : List Bool) :
    synd w = (List.range (bitLength w.length)).foldl
      (fun S k => if xorAt w (cov w.length (2 ^ k - 1)) then S + 2 ^ k else S) 0 := by
  rw [synd, parityPositions_eq, List.foldl_map]
  refine List.foldl_ext _ _ _ fun S k hk => ?_
  rw [xorAt_cov (mem_parityPositions_of_lt_bitLength (List.mem_range.1 hk)), Nat.sub_add_cancel Nat.one_le_two_pow,
    bne_comm]

theorem synd_testBit (w : List Bool) (j : Nat) :
    (synd w).testBit j = (decide (j < bitLength w.length) && xorAt w (cov w.length (2 ^ j - 1))) := by
  rw [synd_eq_foldl, testBit_foldl_add_two_pow]

theorem synd_lt (w : List Bool) : synd w < 2 ^ bitLength w.length :=
  Nat.lt_pow_two_of_testBit _ fun j hj => by simp [synd_testBit, Nat.not_lt.2 hj]

theorem synd_eq_zero_iff {w : List Bool} : synd w = 0 ↔ EvenParity w := by
  rw [EvenParity, parityPositions_eq, List.forall_mem_map]
  constructor
  · intro h j hj
    simpa [h, List.mem_range.1 hj] using (synd_testBit w j).symm
  · refine fun h => Nat.eq_of_testBit_eq fun j => ?_
    rw [synd_testBit, Nat.zero_testBit, Bool.and_eq_false_imp, decide_eq_true_eq]
    exact fun hj => h j (List.mem_range.2 hj)

@[simp] theorem synd_enc (data : List Bool) : synd (enc data) = 0 := synd_eq_zero_iff.2 (enc_evenParity data)

/-- Settles O47, from the syndrome's bits. -/
theorem syndromeRange : Obligations.SyndromeRange := by
  refine fun w => ⟨?_, parityPositions_length w.length ▸ synd_lt w⟩
  rw [synd_eq_zero_iff, evenParity_iff]
  exact forall₂_congr fun _ _ => eq_comm

/-! ### Flipped bits (R131) -/

theorem eq_of_getD_eq {w w' : List Bool} (hlen : w.length = w'.length)
    (h : ∀ j < w.length, w.getD j false = w'.getD j false) : w = w' :=
  List.ext_getElem hlen fun j hj hj' => by
    rw [← List.getD_eq_getElem w false hj, h j hj, List.getD_eq_getElem]

theorem flipAt_getD {w : List Bool} {i : Nat} (hi : i < w.length) (j : Nat) :
    (flipAt w i).getD j false = xor (w.getD j false) (decide (j = i)) := by
  obtain rfl | hj := eq_or_ne j i
  · simp [flipAt, List.getD_eq_getElem?_getD, hi]
  · simp [flipAt, List.getD_eq_getElem?_getD, hj, List.getElem?_set_ne hj.symm]

theorem flipAt_flipAt {w : List Bool} {i : Nat} (hi : i < w.length) : flipAt (flipAt w i) i = w :=
  eq_of_getD_eq (by simp) fun j _ => by
    rw [flipAt_getD (by simpa using hi), flipAt_getD hi, Bool.xor_assoc, Bool.xor_self, Bool.xor_false]

/-- A flip changes the xor over a set of positions exactly if it is at one of them. -/
theorem xorAt_flipAt {w : List Bool} {i : Nat} (hi : i < w.length) {ps : List Nat} (hps : ps.Nodup) :
    xorAt (flipAt w i) ps = xor (xorAt w ps) (decide (i ∈ ps)) := by
  induction ps with
  | nil => rfl
  | cons p ps ih =>
    obtain ⟨hp, hps⟩ := List.nodup_cons.1 hps
    rw [xorAt_cons, xorAt_cons, flipAt_getD hi, ih hps]
    obtain rfl | hne := eq_or_ne p i
    · simp [hp]
    · simp [hne, hne.symm]

theorem cov_nodup (n p : Nat) : (cov n p).Nodup := List.nodup_range.filter _

/-- A flip at i changes the syndrome by xor with i + 1: the groups that cover i are the bits of i + 1. -/
theorem synd_flipAt {w : List Bool} {i : Nat} (hi : i < w.length) : synd (flipAt w i) = synd w ^^^ (i + 1) := by
  refine Nat.eq_of_testBit_eq fun j => ?_
  have hpow : 2 ^ j - 1 + 1 = 2 ^ j := Nat.sub_add_cancel Nat.one_le_two_pow
  have hcov : decide (i ∈ cov w.length (2 ^ j - 1)) = (i + 1).testBit j := by simp [mem_cov_iff_testBit hpow, hi]
  rw [Nat.testBit_xor, synd_testBit, synd_testBit, flipAt_length, xorAt_flipAt hi (cov_nodup ..), hcov]
  by_cases hj : j < bitLength w.length
  · simp [hj]
  · have hlt : i + 1 < 2 ^ j := Nat.lt_of_le_of_lt hi (bitLength_le_iff.1 (Nat.le_of_not_lt hj))
    simp [hj, Nat.testBit_lt_two_pow hlt]

theorem synd_flipAt_enc {data : List Bool} {i : Nat} (hi : i < (enc data).length) :
    synd (flipAt (enc data) i) = i + 1 := by
  rw [synd_flipAt hi, synd_enc, Nat.zero_xor]

/-- Settles O49, one application of `synd_flipAt` for each flip. -/
theorem syndromeOfFewFlips : Obligations.SyndromeOfFewFlips := by
  refine fun data => ⟨synd_enc data, fun i => synd_flipAt_enc, fun a b ha hb hne => ?_, fun h3 => ?_⟩
  · have hS : synd (flipAt (flipAt (enc data) a) b) = (a + 1) ^^^ (b + 1) := by
      rw [synd_flipAt (by simpa using hb), synd_flipAt_enc ha]
    have hself : ∀ x y : Nat, x ^^^ (y + 1) ≠ x := fun x y h =>
      Nat.succ_ne_zero y (Nat.xor_right_inj.1 (h.trans (Nat.xor_zero x).symm))
    refine ⟨hS, ?_, ?_, ?_⟩
    · rw [hS, ne_eq, Nat.xor_eq_zero_iff]
      omega
    · exact hS ▸ hself _ b
    · rw [hS, Nat.xor_comm]
      exact hself _ a
  · rw [synd_flipAt (by simp only [flipAt_length]; omega), synd_flipAt (by simp only [flipAt_length]; omega),
      synd_flipAt_enc (by omega)]
    rfl

/-! ### Error patterns (R131, R156) -/

/-- The positions that an error pattern flips. -/
def onesOf (e : List Bool) : List Nat := (List.range e.length).filter fun i => e.getD i false

theorem mem_onesOf {e : List Bool} {i : Nat} : i ∈ onesOf e ↔ i < e.length ∧ e.getD i false = true := by
  simp [onesOf]

theorem onesOf_nodup (e : List Bool) : (onesOf e).Nodup := List.nodup_range.filter _

theorem onesOf_length (e : List Bool) : (onesOf e).length = e.count true := by
  have he : e = (List.range e.length).map fun i => e.getD i false :=
    eq_of_getD_eq (by simp) fun j hj => by simp [hj]
  conv_rhs => rw [he, List.count, List.countP_map]
  rw [onesOf, ← List.countP_eq_length_filter]
  exact List.countP_congr fun i _ => by simp

/-- A list of positions flipped one after the other. -/
def flipAll (w : List Bool) (ps : List Nat) : List Bool := ps.foldr (fun i w => flipAt w i) w

@[simp] theorem flipAll_length (w : List Bool) (ps : List Nat) : (flipAll w ps).length = w.length := by
  induction ps with
  | nil => rfl
  | cons p ps ih => exact (flipAt_length ..).trans ih

theorem flipAll_getD {w : List Bool} {ps : List Nat} (hps : ps.Nodup) (hlt : ∀ p ∈ ps, p < w.length) (j : Nat) :
    (flipAll w ps).getD j false = xor (w.getD j false) (decide (j ∈ ps)) := by
  induction ps with
  | nil => simp [flipAll]
  | cons p ps ih =>
    obtain ⟨hp, hps⟩ := List.nodup_cons.1 hps
    obtain ⟨hplt, hlt⟩ := List.forall_mem_cons.1 hlt
    have hflip : flipAll w (p :: ps) = flipAt (flipAll w ps) p := rfl
    rw [hflip, flipAt_getD (by simpa using hplt), ih hps hlt]
    obtain rfl | hne := eq_or_ne j p
    · simp [hp]
    · simp [hne]

theorem synd_flipAll {w : List Bool} {ps : List Nat} (hlt : ∀ p ∈ ps, p < w.length) :
    synd (flipAll w ps) = ps.foldr (fun i S => (i + 1) ^^^ S) (synd w) := by
  induction ps with
  | nil => rfl
  | cons p ps ih =>
    obtain ⟨hplt, hlt⟩ := List.forall_mem_cons.1 hlt
    rw [List.foldr_cons, ← ih hlt, Nat.xor_comm]
    exact synd_flipAt (hplt.trans_eq (flipAll_length ..).symm)

/-- Adding an error pattern flips its ones. -/
theorem zipWith_xor_eq_flipAll {w e : List Bool} (h : e.length = w.length) :
    List.zipWith xor w e = flipAll w (onesOf e) := by
  have hlt : ∀ p ∈ onesOf e, p < w.length := fun p hp => h ▸ (mem_onesOf.1 hp).1
  refine eq_of_getD_eq (by simp [h]) fun j hj => ?_
  obtain ⟨hjw, hje⟩ : j < w.length ∧ j < e.length := by simpa using hj
  rw [flipAll_getD (onesOf_nodup e) hlt]
  simp [mem_onesOf, hjw, hje]

/-- Settles O48: the error pattern flips its ones, and each flip at i is a xor with i + 1 by `synd_flipAt`. -/
theorem syndromeIsTheXorOfFlippedPositions : Obligations.SyndromeIsTheXorOfFlippedPositions := by
  intro data e h
  rw [zipWith_xor_eq_flipAll h, synd_flipAll fun p hp => h ▸ (mem_onesOf.1 hp).1, synd_enc]
  rfl

/-- Settles O55: fewer than two ones leave the syndrome 0 or the 1-indexed position of the only one. -/
theorem outOfRangeMeansTwoErrors : Obligations.OutOfRangeMeansTwoErrors := by
  intro data e h hS
  rw [syndromeIsTheXorOfFlippedPositions data e h, ← onesOf, ← h] at hS
  rw [← onesOf_length]
  match hps : onesOf e with
  | [] => simp [hps] at hS
  | [i] =>
    have hi : i < e.length := (mem_onesOf.1 (hps ▸ List.mem_singleton_self i)).1
    simp only [hps, List.foldr_cons, List.foldr_nil, Nat.xor_zero] at hS
    omega
  | _ :: _ :: _ => simp

/-! ### The corrector and the projection (R140, R145) -/

theorem corr_of_located {w : List Bool} (h : 1 ≤ synd w ∧ synd w ≤ w.length) :
    corr w = (flipAt w (synd w - 1), true) := by
  obtain ⟨h1, hn⟩ := h
  simp only [corr, if_neg (Nat.ne_of_gt h1), if_neg (Nat.not_lt.2 hn)]

theorem corr_of_not_located {w : List Bool} (h : ¬ (1 ≤ synd w ∧ synd w ≤ w.length)) : corr w = (w, false) := by
  by_cases h0 : synd w = 0
  · simp only [corr, if_pos h0]
  · have hn : w.length < synd w := by omega
    simp only [corr, if_pos hn, ite_self]

theorem corr_flips (w : List Bool) : (corr w).2 = decide (1 ≤ synd w ∧ synd w ≤ w.length) := by
  by_cases h : 1 ≤ synd w ∧ synd w ≤ w.length
  · rw [corr_of_located h, decide_eq_true h]
  · rw [corr_of_not_located h, decide_eq_false h]

theorem corr_getD (w : List Bool) (j : Nat) :
    (corr w).1.getD j false = xor (w.getD j false) (decide (j + 1 = synd w ∧ synd w ≤ w.length)) := by
  by_cases h : 1 ≤ synd w ∧ synd w ≤ w.length
  · rw [corr_of_located h, flipAt_getD (by omega)]
    congr 2
    rw [eq_iff_iff]
    omega
  · have hj : ¬ (j + 1 = synd w ∧ synd w ≤ w.length) := by omega
    rw [corr_of_not_located h, decide_eq_false hj, Bool.xor_false]

/-- Settles O50: `corr_flips` and `corr_getD`. -/
theorem correctionFlipsAtMostOneBit : Obligations.CorrectionFlipsAtMostOneBit := by
  refine fun w => ⟨corr_length w, by rw [corr_flips, decide_eq_true_eq], fun j _ => ?_⟩
  rw [corr_getD, corr_flips, ← Bool.decide_and]
  congr 2
  rw [eq_iff_iff]
  omega

@[simp] theorem corr_enc (data : List Bool) : corr (enc data) = (enc data, false) :=
  corr_of_not_located (by simp)

theorem corr_flipAt_enc {data : List Bool} {i : Nat} (hi : i < (enc data).length) :
    corr (flipAt (enc data) i) = (enc data, true) := by
  have hS := synd_flipAt_enc hi
  rw [corr_of_located (by rw [hS, flipAt_length]; omega), hS, Nat.add_sub_cancel, flipAt_flipAt hi]

theorem ext_length_eq_mdb (w : List Bool) : (ext w).length = mdb w.length := by
  rw [ext_length, dataPositions_length]

/-- Settles O51: the projection has mdb(n) elements. -/
theorem projectionLength : Obligations.ProjectionLength := by
  refine ⟨fun w hw => ⟨?_, ?_⟩, fun w d hw => ?_⟩
  · rw [ext_length_eq_mdb, mdb_of_pos hw]
  · rw [ext_length_eq_mdb, mdb_eq_mdbSearch]
  · rw [ext_length_eq_mdb, hw, mdb_add_pbn]

end Sys2Proof.Machine
end

section
/-! The decoder requests (43_decoder.md R129 to R155). A block that is presented a word on its operand bus, with a length
that the check of R129 lets through, answers by the functions on words; what it answers for an encoded block, with no,
one or two of its bits flipped, follows from the laws of these functions. -/

namespace Sys2Proof.Machine

/-! ### A word on the operand bus (R129) -/

/-- The length check of a decoder request of length n passes, and w is the codeword that it goes on with. -/
structure State.Presents (s : State) (n : Word) (w : List Bool) : Prop where
  pos : 1 ≤ n.toNat
  fits : n.toNat ≤ s.cfg.nMax
  word : takeBits n.toNat s.operandBus = w

section
variable {s : State} {n : Word} {w : List Bool}

theorem State.Presents.length_eq (h : s.Presents n w) : w.length = n.toNat := by
  rw [← h.word, takeBits_length]

theorem State.Presents.withCodeword (h : s.Presents n w) (go : List Bool → State) :
    s.withCodeword n.toNat go = go w := by
  obtain ⟨hbad, -⟩ | ⟨-, hgo⟩ := s.withCodeword_cases n.toNat go
  · have hpos := h.pos
    have hfits := h.fits
    omega
  · rw [hgo, State.operand, h.word]

/-- A syndrome fits its 16-bit field: the word is no longer than 65535. -/
theorem State.Presents.synd_lt (h : s.Presents n w) : synd w < 65536 := by
  have hlen : bitLength w.length ≤ 16 := bitLength_le_iff.2 (h.length_eq ▸ n.isLt)
  exact (Machine.synd_lt w).trans_le (Nat.pow_le_pow_right (by omega) hlen)

theorem State.Presents.ext_length_le (h : s.Presents n w) : (ext w).length ≤ n.toNat :=
  h.length_eq ▸ Machine.ext_length_le w

/-- An answer by a number alone. -/
theorem State.respond_value_answers (s : State) (st : Status) {v : Nat} (hv : v < 65536) :
    Answers s (s.respond st false 0 v 0#s.cfg.nMax) (statusCode st) false 0 v fun _ => false := by
  simpa using s.respond_answers st false 0#s.cfg.nMax (Nat.zero_lt_succ _) hv

/-- An answer by a sequence that fits the bus. -/
theorem State.respond_sequence_answers (s : State) (st : Status) (f : Bool) {v : Nat} {l : List Bool}
    (hl : l.length ≤ s.cfg.nMax) (hv : v < 65536) :
    Answers s (s.respond st f l.length v (packBits s.cfg.nMax l)) (statusCode st) f l.length v (wires l) := by
  have hbus : s.cfg.nMax ≤ 65535 := nMax_le s.cfg
  rw [← packBits_wires hl]
  exact s.respond_answers st f _ (by omega) hv

/-! ### What the requests answer for a word (R132, R137, R142, R147, R152) -/

theorem exec_synd_of_presents (h : s.Presents n w) :
    ∃ t, exec (.synd n) s = .next t ∧
      Answers s t (outcomeCode (synd w) n.toNat) false 0 (synd w) fun _ => false := by
  refine ⟨_, rfl, ?_⟩
  rw [h.withCodeword, ← statusCode_statusOf]
  exact s.respond_value_answers _ h.synd_lt

theorem exec_locate_of_presents (h : s.Presents n w) :
    ∃ t, exec (.locate n) s = .next t ∧
      Answers s t (outcomeCode (synd w) n.toNat) false 0 (if synd w = 0 then 0xFFFF else synd w - 1)
        fun _ => false := by
  refine ⟨_, rfl, ?_⟩
  have hsynd := h.synd_lt
  rw [h.withCodeword, ← statusCode_statusOf]
  exact s.respond_value_answers _ (by split <;> omega)

theorem exec_correct_of_presents (h : s.Presents n w) :
    ∃ t, exec (.correct n) s = .next t ∧
      Answers s t (outcomeCode (synd w) n.toNat) (corr w).2 n.toNat (synd w) (wires (corr w).1) := by
  refine ⟨_, rfl, ?_⟩
  have hlen : (corr w).1.length = n.toNat := (corr_length w).trans h.length_eq
  rw [h.withCodeword, ← statusCode_statusOf, ← hlen]
  exact s.respond_sequence_answers _ _ (hlen.trans_le h.fits) h.synd_lt

theorem exec_extract_of_presents (h : s.Presents n w) :
    ∃ t, exec (.extract n) s = .next t ∧ Answers s t 0b000#3 false (ext w).length 0 (wires (ext w)) := by
  refine ⟨_, rfl, ?_⟩
  rw [h.withCodeword]
  exact s.respond_sequence_answers .none false (h.ext_length_le.trans h.fits) (Nat.zero_lt_succ _)

theorem dec_eq (w : List Bool) (ac : Bool) :
    dec w ac = (ext (if ac then (corr w).1 else w), synd w, ac && (corr w).2) := by
  cases ac <;> rfl

theorem corrected_length (w : List Bool) (ac : Bool) : (if ac then (corr w).1 else w).length = w.length := by
  rw [apply_ite List.length, corr_length, ite_self]

theorem exec_decode_of_presents (ac : Bool) (h : s.Presents n w) :
    ∃ t, exec (.decode n ac) s = .next t ∧
      Answers s t (outcomeCode (synd w) n.toNat) (ac && (corr w).2)
        (ext (if ac then (corr w).1 else w)).length (synd w) (wires (ext (if ac then (corr w).1 else w))) := by
  refine ⟨_, rfl, ?_⟩
  have hfit : (ext (if ac then (corr w).1 else w)).length ≤ s.cfg.nMax :=
    (ext_length_le _).trans (((corrected_length w ac).trans h.length_eq).trans_le h.fits)
  rw [h.withCodeword, ← statusCode_statusOf]
  simp only [dec_eq]
  exact s.respond_sequence_answers _ _ hfit h.synd_lt

/-- A decoder request fails at a length outside the bus, and answers as for the word presented otherwise. -/
theorem answers_or_fails {i : Instr} {go : List Bool → State} {P : State → Prop}
    (hi : exec i s = .next (s.withCodeword n.toNat go))
    (h : s.Presents n (takeBits n.toNat s.operandBus) → ∃ t, exec i s = .next t ∧ P t) :
    ∃ t, exec i s = .next t ∧
      if n.toNat = 0 ∨ s.cfg.nMax < n.toNat then FailsWith s t 0b011#3 else P t := by
  obtain ⟨hbad, hfail⟩ | ⟨⟨hpos, hfits⟩, -⟩ := s.withCodeword_cases n.toNat go
  · refine ⟨_, hi, ?_⟩
    rw [if_pos hbad, hfail]
    exact s.fail_answers .invalidInput
  · simpa only [if_neg (show ¬ (n.toNat = 0 ∨ s.cfg.nMax < n.toNat) by omega)] using h ⟨hpos, hfits, rfl⟩

end

/-- Settles O13: the value is the syndrome of the word presented. -/
theorem syndAnswersTheSyndromeSum : Obligations.SyndAnswersTheSyndromeSum := fun _ _ =>
  answers_or_fails rfl exec_synd_of_presents

/-- Settles O14: the value is the position that the syndrome names, or the sentinel. -/
theorem locateAnswersThePosition : Obligations.LocateAnswersThePosition := fun _ _ =>
  answers_or_fails rfl exec_locate_of_presents

theorem corr_wires (w : List Bool) :
    wires (corr w).1 = fun j => xor (wires w j) (decide (j + 1 = synd w ∧ synd w ≤ w.length)) :=
  funext (corr_getD w)

/-- Settles O15: the corrected word wire by wire is `corr_getD`. -/
theorem correctAnswersTheCorrectedWord : Obligations.CorrectAnswersTheCorrectedWord := fun _ _ =>
  answers_or_fails rfl fun h => by
    simpa only [corr_flips, corr_wires, h.length_eq] using exec_correct_of_presents h

theorem ext_length_of_pos {w : List Bool} {n : Nat} (hw : w.length = n) (hn : 1 ≤ n) :
    (ext w).length = n - (Nat.log2 n + 1) := by
  rw [ext_length_eq_mdb, hw, mdb_of_pos hn]

/-- Settles O16: the projection of a word of length n has n - (floor(log2 n) + 1) elements. -/
theorem extractAnswersTheData : Obligations.ExtractAnswersTheData := fun _ _ =>
  answers_or_fails rfl fun h => by
    simpa only [ext_length_of_pos h.length_eq h.pos] using exec_extract_of_presents h

/-- Settles O17: the corrected word is as long as the word itself. -/
theorem decodeAnswersTheData : Obligations.DecodeAnswersTheData := fun _ _ ac =>
  answers_or_fails rfl fun h => by
    have hlen := (corrected_length _ ac).trans h.length_eq
    simpa only [corr_flips, ext_length_of_pos hlen h.pos, h.length_eq] using exec_decode_of_presents ac h

/-! ### Requests on an encoded block (R155) -/

theorem takeBits_eq_of_wires {n L : Nat} {bus : BitVec n} {w : List Bool} (hlen : w.length = L)
    (h : ∀ j < L, bus.getLsbD j = wires w j) : takeBits L bus = w := by
  refine eq_of_getD_eq (by rw [takeBits_length, hlen]) fun j hj => ?_
  have hj : j < L := by simpa using hj
  rw [takeBits_getD, decide_eq_true hj, Bool.true_and, h j hj, wires]

/-- ENCODE answers the codeword of its data block, and a block of the same build whose operand bus carries a word of
that length is presented it. -/
theorem exec_encode_codeword {s : State} {d : Word} {data : List Bool} (hdata : takeBits d.toNat s.operandBus = data)
    (h1 : 1 ≤ d.toNat) (hd : d.toNat ≤ s.cfg.dMax) :
    ∃ t, exec (.encode d) s = .next t ∧ t.rspLen.toNat = (enc data).length ∧ t.rspBits.getLsbD = wires (enc data) ∧
      ∀ (s' : State) (w : List Bool), s'.cfg = s.cfg → w.length = (enc data).length →
        (∀ j < t.rspLen.toNat, s'.operandBus.getLsbD j = wires w j) → s'.Presents t.rspLen w := by
  obtain ⟨t, ht, hans⟩ := encodeAnswersTheCodeword s d
  rw [if_neg (Nat.not_lt.2 hd), hdata] at hans
  obtain ⟨-, -, -, hlen, -, hbits, -⟩ := hans
  have henc : (enc data).length = d.toNat + pbn d.toNat := by rw [enc_length, ← hdata, takeBits_length]
  refine ⟨t, ht, hlen.trans henc.symm, funext hbits, fun s' w hc hw hbus => ⟨by omega, ?_, ?_⟩⟩
  · rw [hc, hlen]
    exact codeword_length_le_nMax hd
  · exact takeBits_eq_of_wires (hw.trans (henc.trans hlen.symm)) hbus

@[simp] theorem outcomeCode_zero (n : Nat) : outcomeCode 0 n = 0b000#3 := if_pos rfl

theorem outcomeCode_of_located {S n : Nat} (h1 : 1 ≤ S) (hn : S ≤ n) : outcomeCode S n = 0b001#3 := by
  rw [outcomeCode, if_neg (by omega), if_pos hn]

theorem outcomeCode_of_outOfRange {S n : Nat} (h : n < S) : outcomeCode S n = 0b010#3 := by
  rw [outcomeCode, if_neg (by omega), if_neg (by omega)]

/-- Settles O52: the codeword has syndrome 0 and holds the data. -/
theorem encodedDataRoundTrips : Obligations.EncodedDataRoundTrips := by
  intro s d h1 hd
  generalize hdata : takeBits d.toNat s.operandBus = data
  obtain ⟨t, ht, -, hbits, hpresents⟩ := exec_encode_codeword hdata h1 hd
  have hlen : data.length = d.toNat := by rw [← hdata, takeBits_length]
  refine ⟨t, ht, fun s' hc hbus => ?_⟩
  have h := hpresents s' _ hc rfl fun j hj => (hbus j hj).trans (congrFun hbits j)
  refine ⟨?_, ?_, fun ac => ?_⟩
  · simpa only [ext_enc, hlen] using exec_extract_of_presents h
  · simpa only [synd_enc, corr_enc, outcomeCode_zero, ← hbits] using exec_correct_of_presents h
  · simpa only [synd_enc, corr_enc, outcomeCode_zero, ite_self, ext_enc, hlen, Bool.and_false] using
      exec_decode_of_presents ac h

theorem wires_flipAt {w : List Bool} {i : Nat} (hi : i < w.length) :
    wires (flipAt w i) = fun j => xor (wires w j) (decide (j = i)) :=
  funext (flipAt_getD hi)

/-- Settles O53: the syndrome names the flipped position, and the corrector flips it back. -/
theorem singleFlipIsCorrected : Obligations.SingleFlipIsCorrected := by
  intro s d h1 hd
  generalize hdata : takeBits d.toNat s.operandBus = data
  obtain ⟨t, ht, henc, hbits, hpresents⟩ := exec_encode_codeword hdata h1 hd
  have hlen : data.length = d.toNat := by rw [← hdata, takeBits_length]
  refine ⟨t, ht, fun s' i hc hi hbus => ?_⟩
  have hienc : i < (enc data).length := henc ▸ hi
  have h := hpresents s' (flipAt (enc data) i) hc (flipAt_length ..) fun j hj => by
    rw [wires_flipAt hienc, ← hbits, hbus j hj]
  have hcode : outcomeCode (i + 1) t.rspLen.toNat = 0b001#3 := outcomeCode_of_located (Nat.le_add_left ..) hi
  have hS := synd_flipAt_enc hienc
  have hcorr := corr_flipAt_enc hienc
  refine ⟨?_, ?_, ?_⟩
  · simpa only [hS, hcode, if_neg (Nat.succ_ne_zero i), Nat.add_sub_cancel] using exec_locate_of_presents h
  · simpa only [hS, hcode, hcorr, ← hbits] using exec_correct_of_presents h
  · simpa only [hS, hcode, hcorr, if_true, ext_enc, hlen, Bool.and_true] using exec_decode_of_presents true h

/-- A syndrome that is not 0 locates a bit, which a correcting request flips, or is out of range (R132, R152). -/
theorem located_or_outOfRange {S : Nat} (n : Nat) (ac : Bool) (h : S ≠ 0) :
    (outcomeCode S n = 0b001#3 ∧ S ≤ n ∧ (ac && decide (1 ≤ S ∧ S ≤ n)) = ac) ∨
    (outcomeCode S n = 0b010#3 ∧ n < S ∧ (ac && decide (1 ≤ S ∧ S ≤ n)) = false) := by
  have hpos : 1 ≤ S := Nat.one_le_iff_ne_zero.2 h
  obtain hlt | hle := Nat.lt_or_ge n S
  · exact .inr ⟨outcomeCode_of_outOfRange hlt, hlt, by simp [hlt]⟩
  · exact .inl ⟨outcomeCode_of_located hpos hle, hle, by simp [hpos, hle]⟩

/-- Settles O54: the syndrome of two flips is not 0, so its status is LOCATED or OUT_OF_RANGE. -/
theorem doubleFlipCompletesWithoutNone : Obligations.DoubleFlipCompletesWithoutNone := by
  intro s d h1 hd
  generalize hdata : takeBits d.toNat s.operandBus = data
  obtain ⟨t, ht, henc, hbits, hpresents⟩ := exec_encode_codeword hdata h1 hd
  refine ⟨t, ht, fun s' a b ac hc ha hb hne hbus => ?_⟩
  rw [henc] at ha hb
  have hb' : b < (flipAt (enc data) a).length := by rwa [flipAt_length]
  have h := hpresents s' (flipAt (flipAt (enc data) a) b) hc (by simp only [flipAt_length]) fun j hj => by
    rw [wires_flipAt hb', wires_flipAt ha, ← hbits, hbus j hj]
    by_cases hja : j = a
    · simp [hja, hne]
    · simp [hja]
  obtain ⟨-, -, htwo, -⟩ := syndromeOfFewFlips data
  obtain ⟨hS, hS0, -, -⟩ := htwo a b ha hb hne
  obtain ⟨u, hu, -, hstatus, hflipped, -, hvalue, -⟩ := exec_decode_of_presents ac h
  rw [corr_flips, h.length_eq] at hflipped
  refine ⟨u, hu, hvalue.trans hS, ?_⟩
  rw [hstatus, hvalue, hflipped]
  exact located_or_outOfRange _ ac hS0

end Sys2Proof.Machine
end

section
/-! Failures (60_exceptions.md R170 to R175) and streams (R185 to R188). A request fails exactly for the causes that R173
lists or for a reserved header, and writes nothing but its status then. A request of a stream is answered by `exec` on
the block's operand, so the blocks of an encoded stream, decoded, give the chunks that it was cut into. -/

namespace Sys2Proof.Machine

/-! ### The status as a host reads it (R170) -/

theorem State.readStatus_of_statusCode {s : State} {st : Status} (h : s.rspStatus = statusCode st) :
    s.readStatus = .ok st := by
  rw [State.readStatus, h]
  cases st <;> rfl

/-- A code that no rule writes faults the read (93 I15). -/
theorem State.readStatus_of_reserved {s : State} (h : 5 ≤ s.rspStatus.toNat) :
    s.readStatus = .error (.reservedStatus s.rspStatus) := by
  rw [State.readStatus]
  split
  case h_6 => rfl
  all_goals omega

/-- Settles O37: the read inverts the codes, and the five codes are those below 5. -/
theorem statusReadsBackOrFaults : Obligations.StatusReadsBackOrFaults :=
  ⟨⟨rfl, rfl, rfl, rfl, rfl⟩, fun _ => ⟨fun _ => State.readStatus_of_statusCode, State.readStatus_of_reserved⟩⟩

/-! ### Which requests fail, and what they write (R171 to R173) -/

/-- Settles O7: the decoder rejects a reserved header, and what is rejected fails with INVALID_OP. -/
theorem reservedHeaderCompletesWithInvalidOp : Obligations.ReservedHeaderCompletesWithInvalidOp := by
  intro s h hr hreq hreserved
  obtain ⟨e, he⟩ := (exactlyReservedHeadersAreRejected h).2 hreserved
  have hstep : step s = perform h s := by
    obtain ⟨r, hf, rfl⟩ | ⟨ha, rfl⟩ := hreq
    · exact step_of_inFlight hr hf
    · exact step_of_accepting ha
  exact ⟨_, hstep.trans (perform_of_error he s), s.fail_answers .invalidOp⟩

/-- The status is one that is no failure. -/
def State.Succeeded (t : State) : Prop := ∃ st : Status, st.Success ∧ t.rspStatus = statusCode st

section
variable {s t : State} {f : Bool} {len v : Nat} {bits : Nat → Bool}

theorem Answers.succeeded_none (h : Answers s t 0b000#3 f len v bits) : t.Succeeded := by
  obtain ⟨-, hst, -⟩ := h
  exact ⟨.none, .inl rfl, hst⟩

theorem Answers.succeeded_outcome {S n : Nat} (h : Answers s t (outcomeCode S n) f len v bits) : t.Succeeded := by
  obtain ⟨-, hst, -⟩ := h
  exact ⟨statusOf S n, statusOf_success S n, hst.trans (statusCode_statusOf S n).symm⟩

end

/-- A request fails where R173 lists a cause, and succeeds where it lists none. -/
theorem exec_fails_or_succeeds (i : Instr) (s : State) :
    ∃ t, exec i s = .next t ∧
      (BadOperand s.cfg i ∧ FailsWith s t 0b011#3 ∨ ¬ BadOperand s.cfg i ∧ t.Succeeded) := by
  cases i with
  | pbn d =>
    obtain ⟨t, ht, h⟩ := pbnAnswersTheParityCount s d
    exact ⟨t, ht, .inr ⟨id, h.succeeded_none⟩⟩
  | mdb n =>
    obtain ⟨t, ht, h⟩ := mdbAnswersTheLargestDataLength s n
    exact ⟨t, ht, (ite_prop_iff_or.1 h).imp_right (And.imp_right Answers.succeeded_none)⟩
  | ispar p =>
    obtain ⟨t, ht, hpar, hdata⟩ := isparAnswersWhetherAParityPosition s p
    refine ⟨t, ht, .inr ⟨id, ?_⟩⟩
    by_cases h : ∃ j, p.toNat + 1 = 2 ^ j
    · exact (hpar h).succeeded_none
    · exact (hdata h).succeeded_none
  | cover n p =>
    obtain ⟨t, ht, hbad, hgood⟩ := coverAnswersTheCoverageMask s n p
    refine ⟨t, ht, ?_⟩
    by_cases h : BadOperand s.cfg (.cover n p)
    · exact .inl ⟨h, hbad h⟩
    · exact .inr ⟨h, (hgood h).succeeded_none⟩
  | encode d =>
    obtain ⟨t, ht, h⟩ := encodeAnswersTheCodeword s d
    exact ⟨t, ht, (ite_prop_iff_or.1 h).imp_right (And.imp_right Answers.succeeded_none)⟩
  | synd n =>
    obtain ⟨t, ht, h⟩ := syndAnswersTheSyndromeSum s n
    exact ⟨t, ht, (ite_prop_iff_or.1 h).imp_right (And.imp_right Answers.succeeded_outcome)⟩
  | locate n =>
    obtain ⟨t, ht, h⟩ := locateAnswersThePosition s n
    exact ⟨t, ht, (ite_prop_iff_or.1 h).imp_right (And.imp_right Answers.succeeded_outcome)⟩
  | correct n =>
    obtain ⟨t, ht, h⟩ := correctAnswersTheCorrectedWord s n
    exact ⟨t, ht, (ite_prop_iff_or.1 h).imp_right (And.imp_right Answers.succeeded_outcome)⟩
  | extract n =>
    obtain ⟨t, ht, h⟩ := extractAnswersTheData s n
    exact ⟨t, ht, (ite_prop_iff_or.1 h).imp_right (And.imp_right Answers.succeeded_none)⟩
  | decode n ac =>
    obtain ⟨t, ht, h⟩ := decodeAnswersTheData s n ac
    exact ⟨t, ht, (ite_prop_iff_or.1 h).imp_right (And.imp_right Answers.succeeded_outcome)⟩

theorem exec_of_badOperand {i : Instr} {s : State} (h : BadOperand s.cfg i) :
    ∃ t, exec i s = .next t ∧ FailsWith s t 0b011#3 := by
  obtain ⟨t, ht, ⟨-, hfails⟩ | ⟨hgood, -⟩⟩ := exec_fails_or_succeeds i s
  · exact ⟨t, ht, hfails⟩
  · exact absurd h hgood

/-- Settles O19: the two cases of `exec_fails_or_succeeds` differ in the status. -/
theorem invalidInputHasExactlyItsCauses : Obligations.InvalidInputHasExactlyItsCauses := by
  intro i s
  obtain ⟨t, ht, ⟨hbad, -, hst, -⟩ | ⟨hgood, st, hsuccess, hst⟩⟩ := exec_fails_or_succeeds i s
  · exact ⟨t, ht, iff_of_true hst hbad, by rw [hst]; decide⟩
  · obtain ⟨hinput, hop⟩ := not_or.1 hsuccess.code_ne
    rw [← hst] at hinput hop
    exact ⟨t, ht, iff_of_false hinput hgood, hop⟩

/-- A header that ends in a failure status has written zeros beside it. -/
theorem perform_failsWith {h : Header} {s t : State} (ht : perform h s = .next t)
    (hfail : t.rspStatus = 0b011#3 ∨ t.rspStatus = 0b100#3) : FailsWith s t t.rspStatus := by
  cases hd : decodeHeader h with
  | ok i =>
    cases exec_answerShape ((perform_of_ok hd s).symm.trans ht) with
    | fails => exact s.fail_answers .invalidInput
    | responds v status => exact absurd hfail status.code_ne
  | error e =>
    cases (perform_of_error hd s).symm.trans ht
    exact s.fail_answers .invalidOp

/-- Settles O20: the step performs the request in progress or the one on the port. -/
theorem failedRequestsWriteNoPartialResult : Obligations.FailedRequestsWriteNoPartialResult := by
  intro s t hr hreq ht hfail
  obtain ⟨hr', -⟩ | ⟨-, r, -, hstep⟩ | ⟨-, -, -, hstep⟩ | ⟨-, hf, hv, -⟩ := step_cases s
  · simp [hr] at hr'
  · exact perform_failsWith (hstep.symm.trans ht) hfail
  · exact perform_failsWith (hstep.symm.trans ht) hfail
  · simp [hf, hv] at hreq

/-! ### Cutting a stream into chunks (R185, R186) -/

theorem chunksFrom_of_ne_nil {fuel n : Nat} {l : List Bool} (h : l ≠ []) :
    chunksFrom (fuel + 1) n l = l.take n :: chunksFrom fuel n (l.drop n) := by
  rw [chunksFrom, if_neg (by simpa using h)]

/-- A stream that is not empty has a block. -/
theorem chunks_of_ne_nil {n : Nat} {l : List Bool} (h : l ≠ []) :
    chunks n l = l.take n :: chunksFrom (l.length - 1) n (l.drop n) := by
  have hpos := List.length_pos_iff.2 h
  rw [chunks, ← Nat.sub_add_cancel hpos]
  exact chunksFrom_of_ne_nil h

theorem chunksFrom_flatten {fuel n : Nat} {l : List Bool} (hn : 0 < n) (hfuel : l.length ≤ fuel) :
    (chunksFrom fuel n l).flatten = l := by
  induction fuel generalizing l with
  | zero => rw [List.eq_nil_of_length_eq_zero (Nat.le_zero.1 hfuel)]; rfl
  | succ fuel ih =>
    obtain rfl | h := eq_or_ne l []
    · rfl
    · have hpos := List.length_pos_iff.2 h
      have hrest : (l.drop n).length ≤ fuel := by rw [List.length_drop]; omega
      rw [chunksFrom_of_ne_nil h, List.flatten_cons, ih hrest, List.take_append_drop]

theorem chunks_flatten {n : Nat} (l : List Bool) (hn : 0 < n) : (chunks n l).flatten = l :=
  chunksFrom_flatten hn le_rfl

/-- Every chunk of a whole number of chunks is full. -/
theorem length_of_mem_chunksFrom {fuel n : Nat} {l c : List Bool} (hl : n ∣ l.length) (hc : c ∈ chunksFrom fuel n l) :
    c.length = n := by
  induction fuel generalizing l with
  | zero => cases hc
  | succ fuel ih =>
    obtain rfl | h := eq_or_ne l []
    · cases hc
    · have hle : n ≤ l.length := Nat.le_of_dvd (List.length_pos_iff.2 h) hl
      rw [chunksFrom_of_ne_nil h] at hc
      obtain rfl | hc := List.mem_cons.1 hc
      · exact List.length_take_of_le hle
      · refine ih ?_ hc
        rw [List.length_drop]
        exact Nat.dvd_sub hl (Nat.dvd_refl n)

theorem length_of_mem_chunks {n : Nat} {l c : List Bool} (hl : n ∣ l.length) (hc : c ∈ chunks n l) : c.length = n :=
  length_of_mem_chunksFrom hl hc

theorem length_flatten_of_full {n : Nat} {cs : List (List Bool)} (h : ∀ c ∈ cs, c.length = n) :
    cs.flatten.length = cs.length * n := by
  rw [List.length_flatten, List.map_eq_replicate_iff.2 h, List.sum_replicate_nat]

/-- Chunks put together and cut again come back. -/
theorem chunksFrom_of_flatten {fuel n : Nat} {cs : List (List Bool)} (hn : 0 < n) (h : ∀ c ∈ cs, c.length = n)
    (hfuel : cs.length ≤ fuel) : chunksFrom fuel n cs.flatten = cs := by
  induction cs generalizing fuel with
  | nil => cases fuel <;> rfl
  | cons c cs ih =>
    obtain ⟨hc, hcs⟩ := List.forall_mem_cons.1 h
    obtain ⟨fuel, rfl⟩ := Nat.exists_eq_add_of_le' ((Nat.le_add_left 1 cs.length).trans hfuel)
    have hne : (c :: cs).flatten ≠ [] := by
      rw [← List.length_pos_iff, List.flatten_cons, List.length_append]
      omega
    rw [chunksFrom_of_ne_nil hne, List.flatten_cons, List.take_left' hc, List.drop_left' hc,
      ih hcs (Nat.le_of_succ_le_succ hfuel)]

theorem chunks_of_flatten {n : Nat} {cs : List (List Bool)} (hn : 0 < n) (h : ∀ c ∈ cs, c.length = n) :
    chunks n cs.flatten = cs :=
  chunksFrom_of_flatten hn h (by rw [length_flatten_of_full h]; exact Nat.le_mul_of_pos_right _ hn)

/-! ### One block of a stream -/

/-- A host's request is performed on an operand bus that carries the sequence it was issued with. -/
theorem hostRequest_eq_exec (i : Instr) (bits : List Bool) (s : State) :
    ∃ a, hostRequest ⟨encodeHeader i, bits⟩ s = exec i a ∧ a.cfg = s.cfg ∧
      (bits.length ≤ s.cfg.nMax → takeBits bits.length a.operandBus = bits) := by
  obtain ⟨a, hreq, ha, hcfg, hhdr, hbits⟩ := hostRequest_accepted ⟨encodeHeader i, bits⟩ s
  refine ⟨a, ?_, hcfg, fun hfit => takeBits_eq_of_wires rfl fun j _ => ?_⟩
  · rw [hreq, step_of_accepting ha, hhdr, perform_of_ok (decodeOfEncodeGivesTheRequest i)]
  · rw [State.operandBus_of_accepting ha, ← packBits_wires hfit]
    simp only [BitVec.getLsbD, hbits]

/-- A request that every block of the build answers with NONE and a sequence gives that sequence. -/
theorem blockGives_of_answers {c : Cfg} {i : Instr} {bits out : List Bool} {v : Nat} (hfit : bits.length ≤ c.nMax)
    (h : ∀ a : State, a.cfg = c → takeBits bits.length a.operandBus = bits →
      ∃ t, exec i a = .next t ∧ Answers a t 0b000#3 false out.length v (wires out)) :
    BlockGives c ⟨encodeHeader i, bits⟩ out := by
  rintro s rfl
  obtain ⟨a, hreq, hcfg, hop⟩ := hostRequest_eq_exec i bits s
  obtain ⟨t, ht, -, hstatus, -, hlen, -, hbits, hframe⟩ := h a hcfg (hop hfit)
  obtain ⟨hkept, -⟩ := hframe
  refine ⟨t, (runBlock_eq_ok_iff (hreq.trans ht)).2 ⟨⟨.none, ?_, .inl rfl⟩, ?_, rfl⟩, hkept.trans hcfg⟩
  · exact State.readStatus_of_statusCode hstatus
  · exact takeBits_eq_of_wires hlen.symm fun j _ => hbits j

theorem toNat_ofNat_of_le_nMax {c : Cfg} {n : Nat} (h : n ≤ c.nMax) : (BitVec.ofNat 16 n).toNat = n := by
  have hbus := nMax_le c
  exact Nat.mod_eq_of_lt (by omega)

theorem dMax_le_nMax (c : Cfg) : c.dMax ≤ c.nMax := Nat.le_add_right ..

theorem encodeRequest_gives {c : Cfg} {data : List Bool} (h : data.length ≤ c.dMax) :
    BlockGives c (encodeRequest data) (enc data) := by
  have hfit := h.trans (dMax_le_nMax c)
  refine blockGives_of_answers (v := pbn data.length) hfit fun a hc hop => ?_
  obtain ⟨t, ht, hans⟩ := encodeAnswersTheCodeword a (BitVec.ofNat 16 data.length)
  rw [toNat_ofNat_of_le_nMax hfit, hop, hc, if_neg (Nat.not_lt.2 h), ← enc_length] at hans
  exact ⟨t, ht, hans⟩

/-- DECODE of a codeword gives the data, at the length of the codeword. -/
theorem decodeRequest_gives {c : Cfg} {data : List Bool} (hpos : 0 < data.length) (h : data.length ≤ c.dMax) :
    BlockGives c (decodeRequest (enc data).length true (enc data)) data := by
  have hfit : (enc data).length ≤ c.nMax := enc_length data ▸ codeword_length_le_nMax h
  have hn := toNat_ofNat_of_le_nMax hfit
  refine blockGives_of_answers (v := 0) hfit fun a hc hop => ?_
  have hpresents : a.Presents (BitVec.ofNat 16 (enc data).length) (enc data) := by
    refine ⟨?_, hn.trans_le (hc ▸ hfit), hn.symm ▸ hop⟩
    rw [hn, enc_length]
    omega
  simpa using exec_decode_of_presents true hpresents

/-! ### The blocks of a stream, in order (R185, R186, R188) -/

/-- Blocks that each give an output give the outputs in order. -/
theorem runBlocks_map {α : Type} {c : Cfg} {f : α → Request} {out : α → List Bool} {xs : List α} {s : State}
    (hgives : ∀ x ∈ xs, BlockGives c (f x) (out x)) (hs : s.cfg = c) :
    ∃ t, runBlocks (xs.map f) s = .ok (xs.map out, t) ∧ t.cfg = c := by
  induction xs generalizing s with
  | nil => exact ⟨s, rfl, hs⟩
  | cons x xs ih =>
    obtain ⟨hx, hxs⟩ := List.forall_mem_cons.1 hgives
    obtain ⟨t, ht, hc⟩ := hx s hs
    obtain ⟨u, hu, hc⟩ := ih hxs hc
    exact ⟨u, by simp only [List.map_cons, runBlocks, ht, hu], hc⟩

/-- An encoded stream is the codewords of its chunks. -/
theorem encodeStream_gives {s : State} {d : Nat} {bits : List Bool} (hpos : 0 < d) (hd : d ≤ s.cfg.dMax)
    (hfull : ∀ x ∈ chunks d bits, x.length = d) :
    ∃ t, encodeStream d bits s = .ok (((chunks d bits).map enc).flatten, t) ∧ t.cfg = s.cfg := by
  obtain ⟨t, ht, hc⟩ := runBlocks_map (fun x hx => encodeRequest_gives ((hfull x hx).trans_le hd)) rfl
  have hblocks : encodeBlocks s.cfg.dMax d bits = .ok ((chunks d bits).map encodeRequest) := if_neg (by omega)
  exact ⟨t, by simp only [encodeStream, hblocks, ht], hc⟩

/-- The codewords of data blocks of one length, decoded, give the data. -/
theorem decodeStream_gives {s : State} {d : Nat} {datas : List (List Bool)} (hpos : 0 < d) (hd : d ≤ s.cfg.dMax)
    (hfull : ∀ x ∈ datas, x.length = d) :
    ∃ t, decodeStream (pbn d + d) true (datas.map enc).flatten s = .ok (datas.flatten, t) := by
  have hn : ∀ x ∈ datas, (enc x).length = pbn d + d := fun x hx => by rw [enc_length, hfull x hx, Nat.add_comm]
  have hwords : ∀ w ∈ datas.map enc, w.length = pbn d + d := List.forall_mem_map.2 hn
  have hgives : ∀ x ∈ datas, BlockGives s.cfg (decodeRequest (pbn d + d) true (enc x)) x := by
    intro x hx
    have hlen := hfull x hx
    exact hn x hx ▸ decodeRequest_gives (hlen ▸ hpos) (hlen ▸ hd)
  obtain ⟨t, ht, -⟩ := runBlocks_map hgives rfl
  have hfits : d + pbn d ≤ s.cfg.nMax := codeword_length_le_nMax hd
  have hbus : s.cfg.nMax ≤ 65535 := nMax_le s.cfg
  have hwhole : (datas.map enc).flatten.length % (pbn d + d) = 0 := by
    rw [length_flatten_of_full hwords, Nat.mul_mod_left]
  have hblocks : decodeBlocks (pbn d + d) true (datas.map enc).flatten =
      .ok (datas.map fun x => decodeRequest (pbn d + d) true (enc x)) := by
    rw [decodeBlocks, if_neg (by omega), chunks_of_flatten (by omega) hwords, List.map_map]
    rfl
  refine ⟨t, ?_⟩
  rw [List.map_id'] at ht
  simp only [decodeStream, hblocks, ht]

/-- Settles O58: the encoded stream is cut into the codewords of the chunks, and each decodes to its chunk. -/
theorem streamRoundTrip : Obligations.StreamRoundTrip := by
  intro s d bits hpos hd hwhole
  have hfull : ∀ x ∈ chunks d bits, x.length = d := fun x =>
    length_of_mem_chunks (Nat.dvd_of_mod_eq_zero hwhole)
  have hflat := chunks_flatten bits hpos
  obtain ⟨t, ht, hc⟩ := encodeStream_gives hpos hd hfull
  obtain ⟨u, hu⟩ := decodeStream_gives hpos (hc ▸ hd) hfull
  rw [hflat] at hu
  refine ⟨_, t, u, ht, ?_, hu⟩
  have hcount : bits.length = (chunks d bits).length * d := by rw [← length_flatten_of_full hfull, hflat]
  have hwords : ∀ w ∈ (chunks d bits).map enc, w.length = pbn d + d :=
    List.forall_mem_map.2 fun x hx => by rw [enc_length, hfull x hx, Nat.add_comm]
  rw [length_flatten_of_full hwords, List.length_map, hcount, Nat.mul_div_cancel _ hpos]

/-! ### Streams that a host rejects (R185, R186) -/

/-- A block longer than the bus answers INVALID_INPUT, which aborts the stream. -/
theorem runBlock_decodeRequest_of_gt {s : State} {n : Nat} (ac : Bool) (chunk : List Bool) (h : s.cfg.nMax < n)
    (hn : n < 65536) : runBlock (decodeRequest n ac chunk) s = .error .invalidInput := by
  obtain ⟨a, hreq, hcfg, -⟩ := hostRequest_eq_exec (.decode (BitVec.ofNat 16 n) ac) chunk s
  have hbad : BadOperand a.cfg (.decode (BitVec.ofNat 16 n) ac) := by
    rw [BadOperand, BitVec.toNat_ofNat, Nat.mod_eq_of_lt hn, hcfg]
    exact .inr h
  obtain ⟨t, ht, -, hstatus, -⟩ := exec_of_badOperand hbad
  have hread : t.readStatus = .ok .invalidInput := State.readStatus_of_statusCode hstatus
  simp only [runBlock, decodeRequest, hreq, ht, hread]

theorem decodeStream_of_gt {s : State} {n : Nat} (ac : Bool) {bits : List Bool} (h : s.cfg.nMax < n)
    (hne : bits ≠ []) : decodeStream n ac bits s = .error .invalidInput := by
  by_cases hbad : n = 0 ∨ n ≥ 65536 ∨ bits.length % n ≠ 0
  · simp only [decodeStream, decodeBlocks, if_pos hbad]
  · have hfirst := runBlock_decodeRequest_of_gt ac (bits.take n) h (by omega)
    simp only [decodeStream, decodeBlocks, if_neg hbad, chunks_of_ne_nil hne, List.map_cons, runBlocks, hfirst]

/-- Settles O60: the host's own checks, and the first block of a stream whose blocks do not fit the bus. -/
theorem badStreamsAreRejected : Obligations.BadStreamsAreRejected := by
  refine ⟨fun s d bits h => ?_, fun s n ac bits _ h => ?_, fun s n ac bits => decodeStream_of_gt ac⟩
  · simp only [encodeStream, encodeBlocks, if_pos h]
  · have hbad : n = 0 ∨ n ≥ 65536 ∨ bits.length % n ≠ 0 := .inr (.inr h)
    simp only [decodeStream, decodeBlocks, if_pos hbad]

end Sys2Proof.Machine
end

section
/-! Reset and hazards (70_reset_and_hazards.md). A reset edge forgets everything but the build: whatever the host drives
next, the block stands as a fresh one of its build does (R200, R201, R208). The checked run of clock edges
refuses a host that changes a waiting request, and is the plain run for every other (R206). -/

namespace Sys2Proof.Machine

/-! ### The reset edge (R200, R201) -/

theorem clkEdge_of_rst {s : State} (hr : s.rst = true) : clkEdge s = .next s.resetEdge := by
  simp [clkEdge, hr]

@[simp] theorem State.resetEdge_response (s : State) : s.resetEdge.response = resetResponse := by
  simp [State.response, resetResponse]

/-- With rst = 1 a block is not ready and shows no completion. -/
theorem State.outputs_of_rst {s : State} (hr : s.rst = true) : s.reqReady = false ∧ s.doneOut = false := by
  simp [State.reqReady, State.doneOut, hr]

/-- Once the host drives its wires, nothing tells a block after a reset edge from a fresh one of its build. -/
theorem State.resetEdge_drive (s : State) (p : Pins) : s.resetEdge.drive p = (State.resetFor s.cfg).drive p := rfl

theorem State.resetFor_drive_idle (c : Cfg) :
    (State.resetFor c).drive ⟨false, false, 0#40, []⟩ = State.resetFor c := by
  have hbus : packBits c.nMax [] = 0#c.nMax := BitVec.eq_of_getLsbD_eq fun j hj => by simp [packBits_getLsbD]
  simp [State.drive, State.resetFor, hbus]

/-- Settles O30: both grains take the reset edge, which keeps the wire rst; driven low after it, rst frees the block. -/
theorem resetEdgeWritesTheResetValues : Obligations.ResetEdgeWritesTheResetValues := by
  intro s hr
  obtain ⟨hready, hdone⟩ := State.outputs_of_rst hr
  obtain ⟨hready', hdone'⟩ := State.outputs_of_rst (s := s.resetEdge) hr
  refine ⟨hready, hdone, s.resetEdge, step_of_rst hr, clkEdge_of_rst hr, s.resetEdge_response, rfl, rfl,
    hready', hdone', fun p hp => ?_⟩
  simp [State.reqReady, State.doneOut, hp]

/-- Settles O32: the edge leaves nothing of the draw but the build, and the idle wires are those of the reset state. -/
theorem oneResetEdgeBootsTheBlock : Obligations.OneResetEdgeBootsTheBlock := fun c draw p hp =>
  ⟨(State.powerOn c draw p).resetEdge, clkEdge_of_rst hp,
    (State.resetEdge_drive ..).trans (State.resetFor_drive_idle c)⟩

/-- Settles O34: the request issued after the reset edge is on the port of a block equal to a fresh one. -/
theorem resetAbandonsTheRequest : Obligations.ResetAbandonsTheRequest := by
  intro s r p q _ hp _ _
  obtain ⟨v, hv⟩ := step_completes ((State.resetFor s.cfg).drive q)
  have hu : step ((s.drive p).resetEdge.drive q) = .next v := (State.resetEdge_drive ..).symm ▸ hv
  exact ⟨(s.drive p).resetEdge, v, v, clkEdge_of_rst hp, State.resetEdge_response _, rfl, rfl, hu, hv, rfl⟩

/-! ### A waiting request that the host changes (R206) -/

theorem runEdges_cons {s t : State} {p : Pins} (ht : clkEdge (s.drive p) = .next t) (ps : List Pins) :
    runEdges (p :: ps) s = runEdges ps t := by
  simp only [runEdges, ht]

theorem runCycles_cons_of_break {s : State} {p : Pins} {ps : List Pins}
    (h : ps.head?.any (breaksHold s p) = true) : runCycles (p :: ps) s = .refused .unstableRequest := by
  simp only [runCycles, if_pos h]

theorem runCycles_cons_of_hold {s t : State} {p : Pins} {ps : List Pins}
    (h : ps.head?.any (breaksHold s p) = false) (ht : clkEdge (s.drive p) = .next t) :
    runCycles (p :: ps) s = runCycles ps t := by
  simp only [runCycles, h, ht, Bool.false_eq_true, if_false]

/-- A break at a state that the edges before it reach is refused, unless an earlier one already was. -/
theorem runCycles_of_break {s s' : State} {pre : List Pins} {p q : Pins} (post : List Pins)
    (hrun : runEdges pre s = .next s') (hbreak : breaksHold s' p q = true) :
    runCycles (pre ++ p :: q :: post) s = .refused .unstableRequest := by
  induction pre generalizing s with
  | nil => cases hrun; exact runCycles_cons_of_break hbreak
  | cons x pre ih =>
    cases hx : (pre ++ p :: q :: post).head?.any (breaksHold s x) with
    | true => exact runCycles_cons_of_break hx
    | false =>
      obtain ⟨t, ht, -⟩ := clkEdge_keeps_wires (s.drive x)
      rw [List.cons_append, runCycles_cons_of_hold hx ht]
      exact ih (runEdges_cons ht pre ▸ hrun)

/-- A host that keeps the hold at every cycle the edges reach gets the plain run of edges. -/
theorem runCycles_of_hold {s : State} {ps : List Pins}
    (hhold : ∀ (pre : List Pins) (p q : Pins) (post : List Pins) (s' : State),
      ps = pre ++ p :: q :: post → runEdges pre s = .next s' → breaksHold s' p q = false) :
    runCycles ps s = runEdges ps s := by
  induction ps generalizing s with
  | nil => rfl
  | cons p ps ih =>
    obtain ⟨t, ht, -⟩ := clkEdge_keeps_wires (s.drive p)
    have hfirst : ps.head?.any (breaksHold s p) = false := by
      cases ps with
      | nil => rfl
      | cons q post => exact hhold [] p q post s rfl rfl
    rw [runCycles_cons_of_hold hfirst ht, runEdges_cons ht]
    exact ih fun pre x y post s' hps hrun =>
      hhold (p :: pre) x y post s' (by rw [hps, List.cons_append]) (runEdges_cons ht pre ▸ hrun)

/-- Settles O35: both clauses by induction over the run, one checked cycle at a time. -/
theorem unstableRequestsAreRefused : Obligations.UnstableRequestsAreRefused :=
  ⟨fun _ _ _ _ _ post => runCycles_of_break post, fun _ _ => runCycles_of_hold⟩

end Sys2Proof.Machine
end
